-- ==== Sys2Proof/Word.lean ====
section
/-! DEFINITION. The types of the rules (00_scope.md R12): bits, the three word formats, a candidate
index, the two error kinds and the result of an operation. Index `i` of a word is bit `i` (R9). -/

namespace Sys2Proof

/-- A bit, 0 or 1 (R12): `false` is 0 and `true` is 1. -/
abbrev Bit := Bool

/-- What a host puts on a unit's input before it is read at that port's width. -/
abbrev Byte := BitVec 8

/-- A data word (30_encoding.md R50): bits 0 to 3 are d1 to d4. -/
abbrev Data4 := BitVec 4

/-- A codeword (30_encoding.md R51): bits 0 to 7 are p1, p2, d1, p3, d2, d3, d4, op. -/
abbrev Code8 := BitVec 8

/-- A syndrome in match polarity (30_encoding.md R52): bit `j - 1` is 1 where check `pj` matches. -/
abbrev Match3 := BitVec 3

/-- A candidate data index, or none (R12). -/
abbrev Cand := Option (Fin 4)

/-- The complete list of error kinds (60_exceptions.md R130). -/
inductive ErrorKind where
  /-- Malformed length or non-binary symbol, at the string boundary only (R131). -/
  | invalidInput
  /-- A candidate was found and the post-check total was odd, by DECODE only (R132). -/
  | unrecoverableDoubleError
  deriving DecidableEq, Repr

/-- The result of an operation on words (R12): a data word, or a failure that carries no word. -/
inductive Result where
  | ok (v : Data4)
  | fail (e : ErrorKind)
  deriving DecidableEq, Repr

end Sys2Proof
end

