-- ==== Sys2Proof/Config.lean ====
section
/-! DEFINITION. What an implementation fixes and what the spec leaves free (92_eei_decisions.md,
"Parameters the model takes"). -/

namespace Sys2Proof

/-- The configuration argument `SYNDROME_MAP` (00_scope.md R7): which resolver table DECODE uses. -/
inductive SyndromeMap where
  /-- The table exactly as the source's §4.2 step 4 gives it: the normative value. -/
  | doc42
  /-- Indices 0 and 1 swapped (30_encoding.md R56): not normative. -/
  | coverageConsistent
  deriving DecidableEq, Repr

/-- `FAIL_DATA` (00_scope.md R8): what `data_out` shows while `dbl_err = 1`, one free draw for each
failing evaluation, numbered from 0. It has no body, so nothing can be proved of its values (log 4). -/
opaque Config.failData : Nat → Data4

/-- `T_SETTLE` (92_eei_decisions.md D8): the platform's settling delay, which no rule uses (log 13). -/
opaque Config.tSettle : Nat

end Sys2Proof
end

