-- ==== Sys2Proof/Syntax.lean ====
section
/-! DEFINITION. The operations of the block (30_encoding.md R57), one constructor for each row of
opcode_table.json, and the units that perform them (00_scope.md R2). -/

namespace Sys2Proof

/-- The three units (R2). The operation is selected by which unit's input is driven (R57). -/
inductive UnitName where
  | hammingEncoder
  | syndromeCalculator
  | hammingDecoder
  deriving DecidableEq, Repr

/-- One evaluation: a unit's operation applied to one input word (R57). -/
inductive Instr where
  /-- ENCODE on `data_in` (41_encoder.md R80). -/
  | encode (d : Data4)
  /-- SYNDROME on `code_in` (42_syndrome_calculator.md R90). -/
  | syndrome (c : Code8)
  /-- DECODE on `code_in` (43_decoder.md R100). -/
  | decode (c : Code8)
  deriving DecidableEq, Repr

/-- The unit that performs an operation (R57). -/
def Instr.unit : Instr → UnitName
  | .encode _ => .hammingEncoder
  | .syndrome _ => .syndromeCalculator
  | .decode _ => .hammingDecoder

/-- The width of a unit's input port (10_state.md R26, R27, R28). -/
def UnitName.inWidth : UnitName → Nat
  | .hammingEncoder => 4
  | .syndromeCalculator => 8
  | .hammingDecoder => 8

end Sys2Proof
end

