-- ==== Sys2Proof/WellFormed.lean ====
section
/-! DEFINITION. Which words a host may put on a unit's input, and which operations are well formed.
At the ports every value is legal (30_encoding.md R58), so the one check is that a host's byte fits
the port it is put on. -/

namespace Sys2Proof

/-- A byte put on unit `u` fits that unit's input port: no bit above the port's width is 1. A port of
4 bits cannot carry the others (10_state.md R29). -/
def fitsPort (u : UnitName) (w : Byte) : Bool :=
  w.toNat < 2 ^ u.inWidth

/-- Every operand value of every operation is legal (R58): the operand types hold nothing else. -/
def Instr.wf : Instr → Bool
  | .encode _ => true
  | .syndrome _ => true
  | .decode _ => true

end Sys2Proof
end

