-- ==== Sys2Proof/Decode.lean ====
section
/-! DEFINITION. From a driven unit and the bytes of its input word to an operation, and back. The
selector is the unit driven, no bit of the word (30_encoding.md R57). -/

namespace Sys2Proof

/-- Why the bytes put on a unit's input are no input word of that unit. -/
inductive DecodeError where
  /-- There is no byte. -/
  | noWord
  /-- A bit above the width of the unit's port is 1 (log 8). -/
  | widerThanPort
  deriving DecidableEq, Repr

/-- The operation selected by driving unit `u` with the byte `w` (R57), where `w` fits the port. -/
def decodeDrive (u : UnitName) (w : Byte) : Except DecodeError Instr :=
  if fitsPort u w then
    match u with
    | .hammingEncoder => .ok (.encode (w.setWidth 4))
    | .syndromeCalculator => .ok (.syndrome w)
    | .hammingDecoder => .ok (.decode w)
  else .error .widerThanPort

/-- The operation at the head of a list of bytes put on unit `u`, and the bytes after it. -/
def decode (u : UnitName) : List Byte → Except DecodeError (Instr × List Byte)
  | [] => .error .noWord
  | w :: rest =>
    match decodeDrive u w with
    | .ok i => .ok (i, rest)
    | .error e => .error e

/-- The byte a host puts on the port for an operation: its operand, index `i` at bit `i`
(00_scope.md R9), zeros above a port of 4 bits. -/
def encodeDrive : Instr → Byte
  | .encode d => d.setWidth 8
  | .syndrome c => c
  | .decode c => c

/-- The bytes of an operation's input word: every word has one fixed width (R60). -/
def encode (i : Instr) : List Byte :=
  [encodeDrive i]

/-- The unit the model takes a bare word of the operation table to drive: the only 4-bit row is
ENCODE's, and of the two 8-bit rows, whose words are the same, it takes DECODE's (log 7). -/
def tableUnit (nbits : Nat) : UnitName :=
  if nbits ≤ 4 then .hammingEncoder else .hammingDecoder

/-- The bits of a table word laid out as a byte: a word of at most 8 bits, zeros above `nbits`. -/
def tableByte (nbits w : Nat) : Byte :=
  BitVec.ofNat 8 (w % 2 ^ nbits)

/-- The operation the decoder reads from a table word of `nbits` bits. -/
def decodeTableWord (nbits w : Nat) : Option Instr :=
  match decode (tableUnit nbits) [tableByte nbits w] with
  | .ok (i, _) => some i
  | .error _ => none

end Sys2Proof
end

