-- ==== Sys2Proof/Machine/State.lean ====
section
/-! DEFINITION. The state of the machine: the levels on the ports of the three units, and the host's
side of a call. The block itself holds no architectural state (10_state.md R20); its ports' levels are
held here because a machine with a step must hold them (log 1). -/

namespace Sys2Proof.Machine

/-- The ports of `hamming_encoder` (10_state.md R26) while a valid input is applied. -/
structure EncoderPorts where
  /-- `data_in`: the data word applied. -/
  dataIn : Data4
  /-- `code_out`: the codeword shown. -/
  codeOut : Code8
  deriving DecidableEq, Repr

/-- The ports of `syndrome_calculator` (10_state.md R28) while a valid input is applied. -/
structure SyndromePorts where
  /-- `code_in`: the received codeword applied. -/
  codeIn : Code8
  /-- `syn_match`: the match vector shown. -/
  synMatch : Match3
  deriving DecidableEq, Repr

/-- The ports of `hamming_decoder` (10_state.md R27) while a valid input is applied. -/
structure DecoderPorts where
  /-- `code_in`: the received codeword applied. -/
  codeIn : Code8
  /-- `data_out`: the data word when `dblErr` is 0; a free draw, read by nobody, when it is 1 (R8). -/
  dataOut : Data4
  /-- `dbl_err`: 1 exactly when the result is `Fail(UnrecoverableDoubleError)`. -/
  dblErr : Bit
  deriving DecidableEq, Repr

/-- What the host asks for next: a unit driven with a word (30_encoding.md R57), or one of the string
adapter's two calls (44_host_adapter.md R121, R122). -/
inductive HostCall where
  /-- The host drives the input of unit `u` with the byte `w`. -/
  | drive (u : UnitName) (w : Byte)
  /-- The host calls `encode(str)`. -/
  | encode (str : List Char)
  /-- The host calls `decode(str)`. -/
  | decode (str : List Char)
  deriving DecidableEq, Repr

/-- The result of a host call, success and failure kept apart (44_host_adapter.md R124). -/
inductive HostResult where
  | ok (str : List Char)
  | failure (e : ErrorKind)
  deriving DecidableEq, Repr

/-- The machine's state. A unit's ports are `none` until a valid word is first applied to its input:
"Nothing before that" (10_state.md R32, log 2). -/
structure State where
  /-- The levels on the ports of `hamming_encoder`. -/
  enc : Option EncoderPorts
  /-- The levels on the ports of `syndrome_calculator`. -/
  syn : Option SyndromePorts
  /-- The levels on the ports of `hamming_decoder`. -/
  dec : Option DecoderPorts
  /-- The MODEL'S own: host calls not yet performed, oldest first (log 3). -/
  pending : List HostCall
  /-- The MODEL'S own: the result of the most recent host `encode` or `decode` (log 12). -/
  lastResult : Option HostResult
  /-- The MODEL'S own: how many draws of `FAIL_DATA` were taken (log 4). -/
  draws : Nat
  deriving DecidableEq, Repr

/-- The reasons the machine stops with a fault: none. The two error kinds of the block are results of
a call, after which the machine goes on, and "No other error, fault or exception exists in the block"
(60_exceptions.md R130, R134; log 11). Nobody raises one, which is safe. -/
inductive Fault
  deriving DecidableEq, Repr

/-- The reasons the model gives no meaning. -/
inductive Refusal where
  /-- Raised by an arm of `exec` for an operation with no meaning yet; no arm does. Safe. -/
  | notModelled (mnemonic : String)
  /-- Raised by `step` when the byte the host puts on a unit's input is no word of that port: a bit
  that the port cannot carry is 1 (10_state.md R29, log 8). Safe: nothing is said of such an input. -/
  | undecodable (e : DecodeError)
  deriving DecidableEq, Repr

/-- Power-up: no valid word applied to any unit, so no output is specified yet (10_state.md R32,
70_reset_and_hazards.md R150); no host call made, and no draw taken (log 3, log 4). -/
def State.reset : State where
  enc := none
  syn := none
  dec := none
  pending := []
  lastResult := none
  draws := 0

/-- What the next step performs. -/
inductive Fetched where
  /-- No host call waits. -/
  | idle (s : State)
  /-- A unit is driven: its operation, and the state without the call. -/
  | run (i : Instr) (s : State)
  /-- Host `encode(str)`, and the state without the call. -/
  | hostEncode (str : List Char) (s : State)
  /-- Host `decode(str)`, and the state without the call. -/
  | hostDecode (str : List Char) (s : State)
  /-- The byte driven is no word of the port. -/
  | undecodable (e : DecodeError)
  deriving DecidableEq, Repr

end Sys2Proof.Machine
end

