-- ==== Sys2Proof/Machine/Flags.lean ====
section
/-! DEFINITION. Mod-2 sums (40_parity.md R73) and what is computed from them: overall parity, total
parity; the numeric labels of the error kinds (60_exceptions.md R130). The block holds no flag
(10_state.md R23). -/

namespace Sys2Proof.Machine

/-- Bit `i` of a word (00_scope.md R9). -/
def bit {n : Nat} (w : BitVec n) (i : Nat) : Bit :=
  w.getLsbD i

/-- The mod-2 sum of a list of bits: 0 when an even number of them are 1, else 1 (R73). -/
def mod2Sum (bits : List Bit) : Bit :=
  bits.foldr xor false

/-- `T(c)`: the mod-2 total of all 8 bits of a codeword (43_decoder.md R104, R107). -/
def totalParity (c : Code8) : Bit :=
  mod2Sum [bit c 0, bit c 1, bit c 2, bit c 3, bit c 4, bit c 5, bit c 6, bit c 7]

/-- The error codes of R130: labels, carried by no port. Code 0 is "no error". -/
def errorCode : Option ErrorKind → Nat
  | none => 0
  | some .invalidInput => 1
  | some .unrecoverableDoubleError => 2

/-- `dbl_err`: 1 exactly for `Fail(UnrecoverableDoubleError)` (10_state.md R27). -/
def dblErrOf : Result → Bit
  | .ok _ => false
  | .fail .unrecoverableDoubleError => true
  | .fail .invalidInput => false

end Sys2Proof.Machine
end

