-- ==== Sys2Proof/Machine/Operands.lean ====
section
/-! DEFINITION. The wired constant tables (40_parity.md R70, 30_encoding.md R56), operand extraction
and assembly (R53, R54, R55), and the parity generator every unit shares (R71, R72). -/

namespace Sys2Proof.Machine

/-- The rows of the Parity Coverage Table: the data indices each structural parity bit covers. -/
structure CoverageTable where
  p1 : List (Fin 4)
  p2 : List (Fin 4)
  p3 : List (Fin 4)
  deriving DecidableEq, Repr

/-- `COV` (R70): one constant, the same for encode and decode, never changed (R72). -/
def coverage : CoverageTable where
  p1 := [0, 1, 3]
  p2 := [0, 2, 3]
  p3 := [1, 2, 3]

/-- The three structural parity bits. -/
structure Parity where
  p1 : Bit
  p2 : Bit
  p3 : Bit
  deriving DecidableEq, Repr

/-- The mod-2 sum of the data bits at the indices of one row (R71). -/
def parityBit (row : List (Fin 4)) (d : Data4) : Bit :=
  mod2Sum (row.map fun k => bit d k)

/-- `PARITY` (R71). -/
def parity (d : Data4) : Parity where
  p1 := parityBit coverage.p1 d
  p2 := parityBit coverage.p2 d
  p3 := parityBit coverage.p3 d

/-- The received data bits `Drx`, from positions 2, 4, 5 and 6 (R53). -/
def receivedData (c : Code8) : Data4 :=
  BitVec.ofBoolListLE [bit c 2, bit c 4, bit c 5, bit c 6]

/-- The received parity bits, from positions 0, 1 and 3 (R53). -/
def receivedParity (c : Code8) : Parity where
  p1 := bit c 0
  p2 := bit c 1
  p3 := bit c 3

/-- The received overall parity `rop`, from position 7 (R53). -/
def receivedOverall (c : Code8) : Bit :=
  bit c 7

/-- The codeword position of data index `k` (R54). -/
def dpos : Fin 4 → Nat
  | 0 => 2
  | 1 => 4
  | 2 => 5
  | 3 => 6

/-- Positions 0 to 7 in the order P1, P2, D[0], P3, D[1], D[2], D[3], op (R55). -/
def assemble (p : Parity) (d : Data4) (op : Bit) : Code8 :=
  BitVec.ofBoolListLE [p.p1, p.p2, bit d 0, p.p3, bit d 1, bit d 2, bit d 3, op]

/-- The mod-2 sum of the seven bits of positions 0 to 6 (41_encoder.md R80). -/
def overallParity (p : Parity) (d : Data4) : Bit :=
  mod2Sum [p.p1, p.p2, bit d 0, p.p3, bit d 1, bit d 2, bit d 3]

/-- `w` with bit `i` complemented (00_scope.md R11). -/
def flip {n : Nat} (w : BitVec n) (i : Nat) : BitVec n :=
  w ^^^ BitVec.twoPow n i

/-- The match vector of received against expected parity: 1 is "match" (30_encoding.md R52). -/
def matchVector (rp ep : Parity) : Match3 :=
  BitVec.ofBoolListLE [rp.p1 == ep.p1, rp.p2 == ep.p2, rp.p3 == ep.p3]

/-- `RESOLVE` under each value of `SYNDROME_MAP` (R56). The three columns before the result are
whether p1, p2 and p3 match. -/
def resolve (m : SyndromeMap) (syn : Match3) : Cand :=
  match m, bit syn 0, bit syn 1, bit syn 2 with
  | _, true, true, true => none
  | _, false, true, true => none
  | _, true, false, true => none
  | _, true, true, false => none
  | .doc42, false, false, true => some 1
  | .doc42, false, true, false => some 0
  | .coverageConsistent, false, false, true => some 0
  | .coverageConsistent, false, true, false => some 1
  | _, true, false, false => some 2
  | _, false, false, false => some 3

/-- The value of `SYNDROME_MAP` this hardware is stated at: `DOC_4_2`, the normative one (R7, log 5). -/
def syndromeMap : SyndromeMap := .doc42

end Sys2Proof.Machine
end

