-- ==== Sys2Proof/Machine/Ops.lean ====
section
/-! DEFINITION. The named operations over ports and host calls. There is no memory and no register to
read or write (10_state.md R21, 20_memory.md R40), and no trap: an error is a result value, raised by
`raise` and shown on the ports by `presentResult` (60_exceptions.md R134). Nothing returns from one
(R135). -/

namespace Sys2Proof.Machine

/-- Applies a word to `data_in` of `hamming_encoder`; its output follows. -/
def State.setEncoder (s : State) (p : EncoderPorts) : State := { s with enc := some p }

/-- Applies a word to `code_in` of `syndrome_calculator`; its output follows. -/
def State.setSyndrome (s : State) (p : SyndromePorts) : State := { s with syn := some p }

/-- Applies a word to `code_in` of `hamming_decoder`; its outputs follow. -/
def State.setDecoder (s : State) (p : DecoderPorts) : State := { s with dec := some p }

/-- Replaces the waiting host calls. -/
def State.setPending (s : State) (calls : List HostCall) : State := { s with pending := calls }

/-- Records the result of a host call. -/
def State.setResult (s : State) (r : HostResult) : State := { s with lastResult := some r }

/-- The next free draw of `FAIL_DATA` (00_scope.md R8). -/
def State.failData (s : State) : Data4 := Config.failData s.draws

/-- One draw of `FAIL_DATA` was taken. -/
def State.countDraw (s : State) : State := { s with draws := s.draws + 1 }

/-- `raise E`: the evaluation's result is `Fail(E)` and the evaluation ends; nothing is saved, no mode
changes and control goes nowhere (R134). -/
def raise (e : ErrorKind) : Result := .fail e

/-- The outputs of `hamming_decoder` for the result of a decode of `c` (43_decoder.md R106): the data
word with `dbl_err = 0`, or a fresh free draw with `dbl_err = 1`. -/
def presentResult (c : Code8) (r : Result) (s : State) : State :=
  match r with
  | .ok v => s.setDecoder ⟨c, v, dblErrOf r⟩
  | .fail _ => (s.setDecoder ⟨c, s.failData, dblErrOf r⟩).countDraw

/-- What the next step performs: the oldest waiting host call (log 3). -/
def fetch (s : State) : Fetched :=
  match s.pending with
  | [] => .idle s
  | .drive u w :: rest =>
    match decodeDrive u w with
    | .ok i => .run i (s.setPending rest)
    | .error e => .undecodable e
  | .encode str :: rest => .hostEncode str (s.setPending rest)
  | .decode str :: rest => .hostDecode str (s.setPending rest)

/-- A step with no host call waiting: the inputs are held, so the outputs stay (10_state.md R30,
log 10). -/
def idle (s : State) : State := s

/-- Puts one drive of a unit before all waiting host calls. -/
def State.pushDrive (s : State) (u : UnitName) (w : Byte) : State :=
  s.setPending (.drive u w :: s.pending)

end Sys2Proof.Machine
end

