-- ==== Sys2Proof/Machine/Syndrome.lean ====
section
/-! DEFINITION. `syndrome_calculator` (42_syndrome_calculator.md). -/

namespace Sys2Proof.Machine

/-- `SYNDROME` (R90): received parity against the parity recomputed from the received data. -/
def syndromeWord (c : Code8) : Match3 :=
  matchVector (receivedParity c) (parity (receivedData c))

/-- The state while `c` is applied to `code_in`: `syn_match` follows it alone (R94). -/
def applySyndrome (c : Code8) (s : State) : State :=
  s.setSyndrome ⟨c, syndromeWord c⟩

/-- SYNDROME: total on all 256 inputs, no flag, no exception (R90). -/
def execSyndrome (c : Code8) (s : State) : Host.Outcome State Fault Refusal :=
  .next (applySyndrome c s)

end Sys2Proof.Machine
end

