-- ==== Sys2Proof/Machine/Decoder.lean ====
section
/-! DEFINITION. `hamming_decoder` (43_decoder.md), with the intermediate values of 10_state.md R31
under their own names. -/

namespace Sys2Proof.Machine

/-- The values step 6 computes for a candidate (R104). -/
structure Correction where
  /-- `Dcor`: the received data with the candidate bit flipped. -/
  dcor : Data4
  /-- `c2`: the reassembled word. -/
  c2 : Code8
  /-- `t`: the mod-2 total of `c2`. -/
  t : Bit
  deriving DecidableEq, Repr

/-- The intermediate values of a decode (10_state.md R31): neither state nor ports. -/
structure DecodeTrace where
  /-- `rp1`, `rp2`, `rp3`. -/
  rp : Parity
  rop : Bit
  drx : Data4
  /-- `ep1`, `ep2`, `ep3`. -/
  ep : Parity
  synMatch : Match3
  cand : Cand
  deriving DecidableEq, Repr

/-- Decode steps 1 to 4 (R101, R102). -/
def decodeTrace (m : SyndromeMap) (c : Code8) : DecodeTrace where
  rp := receivedParity c
  rop := receivedOverall c
  drx := receivedData c
  ep := parity (receivedData c)
  synMatch := syndromeWord c
  cand := resolve m (syndromeWord c)

/-- Decode step 6 up to the post-check total, for candidate `k` (R104): the original parity bits, the
corrected data and the original overall parity reassembled. -/
def correct (tr : DecodeTrace) (k : Fin 4) : Correction :=
  let dcor := flip tr.drx k
  let c2 := assemble tr.rp dcor tr.rop
  { dcor := dcor, c2 := c2, t := totalParity c2 }

/-- The post-check (R105): an even total accepts the correction, an odd one fails. -/
def postCheck (x : Correction) : Result :=
  if x.t = false then .ok x.dcor else raise .unrecoverableDoubleError

/-- `DECODE` (R100) under resolver table `m`: with no candidate the received data unchanged and no
other check (R103), else the corrected data if it passes the post-check. -/
def decodeWord (m : SyndromeMap) (c : Code8) : Result :=
  let tr := decodeTrace m c
  match tr.cand with
  | none => .ok tr.drx
  | some k => postCheck (correct tr k)

/-- The state while `c` is applied to `code_in`: `data_out` and `dbl_err` follow it (R106, R111). -/
def applyDecode (c : Code8) (s : State) : State :=
  presentResult c (decodeWord syndromeMap c) s

/-- DECODE (R100): total on all 256 inputs; a failure is a result, not a stop (R111, R134). -/
def execDecode (c : Code8) (s : State) : Host.Outcome State Fault Refusal :=
  .next (applyDecode c s)

end Sys2Proof.Machine
end

