-- ==== Sys2Proof/Machine/Encoder.lean ====
section
/-! DEFINITION. `hamming_encoder` (41_encoder.md). -/

namespace Sys2Proof.Machine

/-- `ENCODE` (R80): the parity bits, the fixed order, and the overall parity as position 7. -/
def encodeWord (d : Data4) : Code8 :=
  assemble (parity d) d (overallParity (parity d) d)

/-- The state while `d` is applied to `data_in`: `code_out` follows it alone (R85). -/
def applyEncode (d : Data4) (s : State) : State :=
  s.setEncoder ⟨d, encodeWord d⟩

/-- ENCODE: total, deterministic, free of side effects (R81). -/
def execEncode (d : Data4) (s : State) : Host.Outcome State Fault Refusal :=
  .next (applyEncode d s)

end Sys2Proof.Machine
end

