-- ==== Sys2Proof/Machine/Dispatch.lean ====
section
/-! DEFINITION. One arm for each operation of opcode_table.json. -/

namespace Sys2Proof.Machine

def exec (i : Instr) (s : State) : Host.Outcome State Fault Refusal :=
  match i with
  | .encode d => Sys2Proof.Machine.execEncode d s
  | .syndrome c => Sys2Proof.Machine.execSyndrome c s
  | .decode c => Sys2Proof.Machine.execDecode c s

end Sys2Proof.Machine
end

