-- ==== Sys2Proof/Machine/HostAdapter.lean ====
section
/-! DEFINITION. The host adapter between strings and words (44_host_adapter.md), where `InvalidInput`
arises. -/

namespace Sys2Proof.Machine

/-- The symbols accepted: `'0'` and `'1'`, nothing else (R120). -/
def isBinary (ch : Char) : Bool := ch == '0' || ch == '1'

/-- `PARSE_n` (R120): exactly `n` symbols, each `'0'` or `'1'`; character `i` becomes bit `i`. -/
def parse (n : Nat) (str : List Char) : Except ErrorKind (BitVec n) :=
  if str.length ≠ n then .error .invalidInput
  else if str.all isBinary then .ok ((BitVec.ofBoolListLE (str.map (· == '1'))).setWidth n)
  else .error .invalidInput

/-- `SHOW_n` (R121): character `i` is `'1'` if bit `i` is 1, else `'0'`. -/
def showWord {n : Nat} (w : BitVec n) : List Char :=
  (List.range n).map fun i => if bit w i then '1' else '0'

/-- The host result of a decode's result: success and failure kept apart (R122, R124). -/
def hostResultOf : Result → HostResult
  | .ok v => .ok (showWord v)
  | .fail e => .failure e

/-- What host `encode(str)` returns (R121). -/
def hostEncode (str : List Char) : HostResult :=
  match parse 4 str with
  | .error e => .failure e
  | .ok d => .ok (showWord (encodeWord d))

/-- What host `decode(str)` returns (R122) under resolver table `m`. -/
def hostDecode (m : SyndromeMap) (str : List Char) : HostResult :=
  match parse 8 str with
  | .error e => .failure e
  | .ok c => hostResultOf (decodeWord m c)

/-- Host `encode(str)` on the machine: a valid string drives `hamming_encoder`; an invalid one
evaluates no unit (R123). -/
def callEncode (str : List Char) (s : State) : State :=
  match parse 4 str with
  | .error _ => s.setResult (hostEncode str)
  | .ok d => (applyEncode d s).setResult (hostEncode str)

/-- Host `decode(str)` on the machine: a valid string drives `hamming_decoder`; an invalid one
evaluates no unit (R123). -/
def callDecode (str : List Char) (s : State) : State :=
  match parse 8 str with
  | .error _ => s.setResult (hostDecode syndromeMap str)
  | .ok c => (applyDecode c s).setResult (hostDecode syndromeMap str)

end Sys2Proof.Machine
end

