-- ==== Sys2Proof/Machine/Step.lean ====
section
/-! DEFINITION. One step: the oldest waiting host call is performed. A driven unit evaluates once
(70_reset_and_hazards.md R157); a call of the string adapter parses, evaluates and records its result;
with no call waiting the inputs are held. -/

namespace Sys2Proof.Machine

/-- One step of the machine. -/
def step (s : State) : Host.Outcome State Fault Refusal :=
  match fetch s with
  | .idle s' => .next (idle s')
  | .run i s' => exec i s'
  | .hostEncode str s' => .next (callEncode str s')
  | .hostDecode str s' => .next (callDecode str s')
  | .undecodable e => .refused (.undecodable e)

/-- The state whose next step drives the unit of a table word with that word (log 7, log 9). -/
def State.withFetchWord (s : State) (nbits w : Nat) : State :=
  s.pushDrive (tableUnit nbits) (tableByte nbits w)

end Sys2Proof.Machine
end

