-- ==== Sys2Proof/Safety.lean ====
section
/-! DEFINITION. What counts as a legal state and a safe run, in the terms the statements use. -/

namespace Sys2Proof.Machine

/-- `code_out` is `ENCODE(data_in)` (10_state.md R30, R32). -/
def EncoderPorts.follows (p : EncoderPorts) : Prop :=
  p.codeOut = encodeWord p.dataIn

/-- `syn_match` is `SYNDROME(code_in)` (R30, R32). -/
def SyndromePorts.follows (p : SyndromePorts) : Prop :=
  p.synMatch = syndromeWord p.codeIn

/-- `dbl_err` and `data_out` are `DECODE(code_in)`; of `data_out` while `dbl_err = 1` nothing is said
(R27, R30). -/
def DecoderPorts.follows (p : DecoderPorts) : Prop :=
  match decodeWord syndromeMap p.codeIn with
  | .ok v => p.dblErr = false ∧ p.dataOut = v
  | .fail _ => p.dblErr = true

/-- The output ports of every unit are the function of its applied input that the rules give. A state
whose ports disagree is one no combinational block can be in. -/
structure State.PortsFollow (s : State) : Prop where
  enc : ∀ p, s.enc = some p → p.follows
  syn : ∀ p, s.syn = some p → p.follows
  dec : ∀ p, s.dec = some p → p.follows

/-- A host call the machine can perform: a driven byte fits its port; any string may be passed, since
the adapter rejects a malformed one by its result (44_host_adapter.md R120). -/
def HostCall.wf : HostCall → Bool
  | .drive u w => fitsPort u w
  | .encode _ => true
  | .decode _ => true

/-- Every waiting host call can be performed (the host's duty, R125). -/
def State.CallsFit (s : State) : Prop :=
  ∀ call ∈ s.pending, call.wf = true

/-- A safe run: after any number of steps the machine still has a next state, with ports that follow
their inputs. -/
def SafeRun (s : State) : Prop :=
  ∀ k, ∃ t, Sys2Proof.core.run k s = .next t ∧ State.PortsFollow t

end Sys2Proof.Machine
end

