-- ==== Sys2Proof/Certificates/Slice0/Obligations.lean ====
section
/-! DEFINITION. The statements for the provers. A word's bit `i` is `w.getLsbD i` (00_scope.md R9), and
bits are written out in the statements wherever a rule gives them by formula. -/

open Sys2Proof Sys2Proof.Machine

/-! ### Tables and the parity generator -/

/-- 40_parity.md R70, R71: the rows of the table; PARITY sums the covered bits; its corner values. -/
def Obligations.ParitySumsTheCoveredBits : Prop :=
  coverage.p1 = [0, 1, 3] ∧ coverage.p2 = [0, 2, 3] ∧ coverage.p3 = [1, 2, 3] ∧
  (∀ d : Data4,
    (parity d).p1 = (d.getLsbD 0 ^^ d.getLsbD 1 ^^ d.getLsbD 3) ∧
    (parity d).p2 = (d.getLsbD 0 ^^ d.getLsbD 2 ^^ d.getLsbD 3) ∧
    (parity d).p3 = (d.getLsbD 1 ^^ d.getLsbD 2 ^^ d.getLsbD 3)) ∧
  coverage.p1.map dpos = [2, 4, 6] ∧ coverage.p2.map dpos = [2, 5, 6] ∧
  coverage.p3.map dpos = [4, 5, 6] ∧
  (∀ k : Fin 4, ([coverage.p1, coverage.p2, coverage.p3].filter (k ∈ ·)).length =
    if k = 3 then 3 else 2) ∧
  parity 0x0 = ⟨false, false, false⟩ ∧ parity 0xF = ⟨true, true, true⟩ ∧
  parity 0xD = ⟨false, true, false⟩

/-- R73: a mod-2 sum is 0 when an even number of the bits are 1, and 1 when an odd number are. -/
def Obligations.Mod2SumIsOddCount : Prop :=
  ∀ bits : List Bit,
    (mod2Sum bits = true ↔ (bits.filter (· = true)).length % 2 = 1) ∧
    (mod2Sum bits = false ↔ (bits.filter (· = true)).length % 2 = 0)

/-- R74: PARITY is linear. -/
def Obligations.ParityIsLinear : Prop :=
  ∀ a b : Data4,
    (parity (a ^^^ b)).p1 = ((parity a).p1 ^^ (parity b).p1) ∧
    (parity (a ^^^ b)).p2 = ((parity a).p2 ^^ (parity b).p2) ∧
    (parity (a ^^^ b)).p3 = ((parity a).p3 ^^ (parity b).p3)

/-- 30_encoding.md R53, R54, R55: which bits are extracted, where data index `k` lies, and where
assembly puts each bit. -/
def Obligations.ExtractionAndAssemblyPositions : Prop :=
  (∀ c : Code8,
    receivedParity c = ⟨c.getLsbD 0, c.getLsbD 1, c.getLsbD 3⟩ ∧
    receivedOverall c = c.getLsbD 7 ∧
    (receivedData c).getLsbD 0 = c.getLsbD 2 ∧ (receivedData c).getLsbD 1 = c.getLsbD 4 ∧
    (receivedData c).getLsbD 2 = c.getLsbD 5 ∧ (receivedData c).getLsbD 3 = c.getLsbD 6 ∧
    (∀ k : Fin 4, (receivedData c).getLsbD k = c.getLsbD (dpos k)) ∧
    assemble (receivedParity c) (receivedData c) (receivedOverall c) = c) ∧
  (dpos 0 = 2 ∧ dpos 1 = 4 ∧ dpos 2 = 5 ∧ dpos 3 = 6) ∧
  ∀ (p : Parity) (d : Data4) (op : Bit),
    (assemble p d op).getLsbD 0 = p.p1 ∧ (assemble p d op).getLsbD 1 = p.p2 ∧
    (assemble p d op).getLsbD 2 = d.getLsbD 0 ∧ (assemble p d op).getLsbD 3 = p.p3 ∧
    (assemble p d op).getLsbD 4 = d.getLsbD 1 ∧ (assemble p d op).getLsbD 5 = d.getLsbD 2 ∧
    (assemble p d op).getLsbD 6 = d.getLsbD 3 ∧ (assemble p d op).getLsbD 7 = op

/-- R56, R102: the resolver's eight rows under both values of SYNDROME_MAP, and that this hardware is
stated at DOC_4_2 (00_scope.md R7). -/
def Obligations.ResolverTableRows : Prop :=
  syndromeMap = .doc42 ∧
  (∀ m, resolve m 0x7 = none ∧ resolve m 0x6 = none ∧ resolve m 0x5 = none ∧ resolve m 0x3 = none ∧
    resolve m 0x1 = some 2 ∧ resolve m 0x0 = some 3) ∧
  resolve .doc42 0x4 = some 1 ∧ resolve .doc42 0x2 = some 0 ∧
  resolve .coverageConsistent 0x4 = some 0 ∧ resolve .coverageConsistent 0x2 = some 1

/-! ### ENCODE -/

/-- 41_encoder.md R80: in every state ENCODE completes, drives `data_in` and shows on `code_out` the
codeword of the rule, and changes nothing else. -/
def Obligations.EncodeGivesTheCodeword : Prop :=
  ∀ (s : State) (d : Data4), ∃ c : Code8,
    exec (.encode d) s = .next { s with enc := some ⟨d, c⟩ } ∧
    c.getLsbD 0 = (d.getLsbD 0 ^^ d.getLsbD 1 ^^ d.getLsbD 3) ∧
    c.getLsbD 1 = (d.getLsbD 0 ^^ d.getLsbD 2 ^^ d.getLsbD 3) ∧
    c.getLsbD 2 = d.getLsbD 0 ∧
    c.getLsbD 3 = (d.getLsbD 1 ^^ d.getLsbD 2 ^^ d.getLsbD 3) ∧
    c.getLsbD 4 = d.getLsbD 1 ∧ c.getLsbD 5 = d.getLsbD 2 ∧ c.getLsbD 6 = d.getLsbD 3 ∧
    c.getLsbD 7 = (c.getLsbD 0 ^^ c.getLsbD 1 ^^ c.getLsbD 2 ^^ c.getLsbD 3 ^^ c.getLsbD 4 ^^
      c.getLsbD 5 ^^ c.getLsbD 6) ∧
    (d = 0x0 → c = 0x00) ∧ (d = 0xF → c = 0xFF) ∧ (d = 0xD → c = 0x66)

/-- R82: the overall parity of every ENCODE output is `D[0] ^ D[1] ^ D[2]`, because the three parity
bits sum to `D[3]`. -/
def Obligations.EncodeOverallParitySimplifies : Prop :=
  ∀ (s : State) (d : Data4), ∃ c : Code8,
    exec (.encode d) s = .next { s with enc := some ⟨d, c⟩ } ∧
    (c.getLsbD 0 ^^ c.getLsbD 1 ^^ c.getLsbD 3) = d.getLsbD 3 ∧
    c.getLsbD 7 = (d.getLsbD 0 ^^ d.getLsbD 1 ^^ d.getLsbD 2)

/-- R83: every ENCODE output has even total parity. -/
def Obligations.EncodeOutputHasEvenParity : Prop :=
  ∀ (s : State) (d : Data4), ∃ c : Code8,
    exec (.encode d) s = .next { s with enc := some ⟨d, c⟩ } ∧
    (c.getLsbD 0 ^^ c.getLsbD 1 ^^ c.getLsbD 2 ^^ c.getLsbD 3 ^^ c.getLsbD 4 ^^ c.getLsbD 5 ^^
      c.getLsbD 6 ^^ c.getLsbD 7) = false

/-- R84: ENCODE is injective, its positions 2, 4, 5 and 6 carry the data, any two of its outputs differ
in at least 4 positions, and exactly 4 for some pairs. -/
def Obligations.EncodeMinimumDistanceFour : Prop :=
  (∀ (s s' : State) (d d' : Data4), d ≠ d' → ∃ c c' : Code8,
    exec (.encode d) s = .next { s with enc := some ⟨d, c⟩ } ∧
    exec (.encode d') s' = .next { s' with enc := some ⟨d', c'⟩ } ∧
    c ≠ c' ∧ (∀ k : Fin 4, c.getLsbD (dpos k) = d.getLsbD k) ∧
    4 ≤ ((List.range 8).filter fun p => c.getLsbD p != c'.getLsbD p).length) ∧
  ∃ d d' : Data4, ∀ s : State, ∃ c c' : Code8,
    exec (.encode d) s = .next { s with enc := some ⟨d, c⟩ } ∧
    exec (.encode d') s = .next { s with enc := some ⟨d', c'⟩ } ∧
    ((List.range 8).filter fun p => c.getLsbD p != c'.getLsbD p).length = 4

/-! ### SYNDROME -/

/-- 42_syndrome_calculator.md R90: in every state SYNDROME completes, drives `code_in` of the
calculator, shows the match vector of the rule, and changes nothing else. -/
def Obligations.SyndromeGivesTheMatchVector : Prop :=
  ∀ (s : State) (c : Code8), ∃ m : Match3,
    exec (.syndrome c) s = .next { s with syn := some ⟨c, m⟩ } ∧
    m.getLsbD 0 = (c.getLsbD 0 == (c.getLsbD 2 ^^ c.getLsbD 4 ^^ c.getLsbD 6)) ∧
    m.getLsbD 1 = (c.getLsbD 1 == (c.getLsbD 2 ^^ c.getLsbD 5 ^^ c.getLsbD 6)) ∧
    m.getLsbD 2 = (c.getLsbD 3 == (c.getLsbD 4 ^^ c.getLsbD 5 ^^ c.getLsbD 6)) ∧
    (c = 0x00 → m = 0x7) ∧ (c = 0xFF → m = 0x7) ∧ (c = 0x67 → m = 0x6)

/-- R91: SYNDROME does not depend on position 7. -/
def Obligations.SyndromeIgnoresOverallBit : Prop :=
  ∀ (s : State) (c : Code8), ∃ m : Match3,
    exec (.syndrome c) s = .next { s with syn := some ⟨c, m⟩ } ∧
    exec (.syndrome (c ^^^ 0x80)) s = .next { s with syn := some ⟨c ^^^ 0x80, m⟩ }

/-- R92: the mismatch vector is the XOR of `p + 1` over the positions `p` in 0..6 that hold a 1; on a
codeword with error pattern `e` the syndrome is the syndrome of `e` alone; and each single flipped
position gives the row of the rule's table. -/
def Obligations.SyndromeDependsOnErrorPatternOnly : Prop :=
  (∀ (s : State) (c : Code8), ∃ m : Match3,
    exec (.syndrome c) s = .next { s with syn := some ⟨c, m⟩ } ∧
    m = 0x7 ^^^ (List.range 7).foldl
      (fun acc p => if c.getLsbD p then acc ^^^ BitVec.ofNat 3 (p + 1) else acc) 0) ∧
  (∀ (s : State) (d : Data4) (e : Code8), ∃ c : Code8, ∃ m : Match3,
    exec (.encode d) s = .next { s with enc := some ⟨d, c⟩ } ∧
    exec (.syndrome (c ^^^ e)) s = .next { s with syn := some ⟨c ^^^ e, m⟩ } ∧
    exec (.syndrome e) s = .next { s with syn := some ⟨e, m⟩ }) ∧
  ∀ (s : State) (d : Data4),
    ∀ row ∈ ([(0x00, 0x7), (0x01, 0x6), (0x02, 0x5), (0x04, 0x4), (0x08, 0x3), (0x10, 0x2),
      (0x20, 0x1), (0x40, 0x0), (0x80, 0x7)] : List (Code8 × Match3)),
    ∃ c : Code8,
      exec (.encode d) s = .next { s with enc := some ⟨d, c⟩ } ∧
      exec (.syndrome (c ^^^ row.1)) s = .next { s with syn := some ⟨c ^^^ row.1, row.2⟩ }

/-- R93: what ENCODE shows has all checks matching. -/
def Obligations.SyndromeOfEncodeOutputMatches : Prop :=
  ∀ (s : State) (d : Data4), ∃ (c : Code8) (t : State),
    exec (.encode d) s = .next t ∧ t.enc = some ⟨d, c⟩ ∧
    exec (.syndrome c) t = .next { t with syn := some ⟨c, 0x7⟩ }

/-! ### DECODE -/

/-- 43_decoder.md R100, R104: in every state DECODE completes, with the result of the rule's
pseudocode on its ports: the received data when no candidate exists; with candidate `k` the data
with bit `k` flipped if the reassembled word has even total parity; else `dbl_err = 1`. Nothing
else changes but the count of draws. That a failure counts one draw is the MODEL'S choice (log 4,
DESIGN CHOICE), no rule of the spec. -/
def Obligations.DecodeFollowsTheProcedure : Prop :=
  ∀ (s : State) (c : Code8),
    let drx : Data4 := BitVec.ofBoolListLE [c.getLsbD 2, c.getLsbD 4, c.getLsbD 5, c.getLsbD 6]
    let m1 := c.getLsbD 0 == (drx.getLsbD 0 ^^ drx.getLsbD 1 ^^ drx.getLsbD 3)
    let m2 := c.getLsbD 1 == (drx.getLsbD 0 ^^ drx.getLsbD 2 ^^ drx.getLsbD 3)
    let m3 := c.getLsbD 3 == (drx.getLsbD 1 ^^ drx.getLsbD 2 ^^ drx.getLsbD 3)
    let cand : Option Nat :=
      if m1 && m2 && m3 then none
      else if !m1 && m2 && m3 then none
      else if m1 && !m2 && m3 then none
      else if m1 && m2 && !m3 then none
      else if !m1 && !m2 && m3 then some 1
      else if !m1 && m2 && !m3 then some 0
      else if m1 && !m2 && !m3 then some 2
      else some 3
    (cand = none → exec (.decode c) s = .next { s with dec := some ⟨c, drx, false⟩ }) ∧
    ∀ k, cand = some k →
      let dcor : Data4 := drx ^^^ BitVec.twoPow 4 k
      let c2 : Code8 := BitVec.ofBoolListLE [c.getLsbD 0, c.getLsbD 1, dcor.getLsbD 0, c.getLsbD 3,
        dcor.getLsbD 1, dcor.getLsbD 2, dcor.getLsbD 3, c.getLsbD 7]
      let t := c2.getLsbD 0 ^^ c2.getLsbD 1 ^^ c2.getLsbD 2 ^^ c2.getLsbD 3 ^^ c2.getLsbD 4 ^^
        c2.getLsbD 5 ^^ c2.getLsbD 6 ^^ c2.getLsbD 7
      (t = false → exec (.decode c) s = .next { s with dec := some ⟨c, dcor, false⟩ }) ∧
      (t = true → ∃ x : Data4,
        exec (.decode c) s = .next { s with dec := some ⟨c, x, true⟩, draws := s.draws + 1 })

/-- R101: the decoder's steps 1 to 3 are SYNDROME on the same word: its internal match vector, under
either table, is what a separate calculator shows, and its extracted bits are those of R53. -/
def Obligations.DecoderUsesTheSyndromeCalculator : Prop :=
  ∀ (s : State) (c : Code8) (m : SyndromeMap),
    exec (.syndrome c) s = .next { s with syn := some ⟨c, (decodeTrace m c).synMatch⟩ } ∧
    (decodeTrace m c).rp = ⟨c.getLsbD 0, c.getLsbD 1, c.getLsbD 3⟩ ∧
    (decodeTrace m c).rop = c.getLsbD 7 ∧
    (∀ k : Fin 4, (decodeTrace m c).drx.getLsbD k = c.getLsbD (dpos k)) ∧
    (decodeTrace m c).ep = parity (decodeTrace m c).drx ∧
    (decodeTrace m c).cand = resolve m (decodeTrace m c).synMatch

/-- R103: with no candidate DECODE shows the received data unchanged with `dbl_err = 0`, whatever the
overall parity bit is: the word with position 7 flipped gives the same outputs. -/
def Obligations.NoCandidateReturnsReceivedData : Prop :=
  ∀ (s : State) (c : Code8), resolve .doc42 (syndromeWord c) = none →
    ∃ v : Data4, (∀ k : Fin 4, v.getLsbD k = c.getLsbD (dpos k)) ∧
      exec (.decode c) s = .next { s with dec := some ⟨c, v, false⟩ } ∧
      exec (.decode (c ^^^ 0x80)) s = .next { s with dec := some ⟨c ^^^ 0x80, v, false⟩ }

/-- R104, R105: with candidate `k` the reassembled word is the received word with position `dpos
k` flipped, and the post-check on it decides: even total, the corrected data; odd total, failure.
That a failure counts one draw is the MODEL'S choice (log 4, DESIGN CHOICE), no rule of the spec.
-/
def Obligations.PostCheckDecidesTheCorrection : Prop :=
  ∀ (s : State) (c : Code8) (k : Fin 4), resolve .doc42 (syndromeWord c) = some k →
    let tr := decodeTrace .doc42 c
    let x := correct tr k
    x.dcor = tr.drx ^^^ BitVec.twoPow 4 k ∧
    x.c2 = assemble tr.rp x.dcor tr.rop ∧
    x.c2 = c ^^^ BitVec.twoPow 8 (dpos k) ∧
    (x.t = true ↔ ((List.range 8).filter x.c2.getLsbD).length % 2 = 1) ∧
    (x.t = false → decodeWord .doc42 c = .ok x.dcor ∧
      exec (.decode c) s = .next { s with dec := some ⟨c, x.dcor, false⟩ }) ∧
    (x.t = true → decodeWord .doc42 c = .fail .unrecoverableDoubleError ∧
      ∃ y : Data4,
        exec (.decode c) s = .next { s with dec := some ⟨c, y, true⟩, draws := s.draws + 1 })

/-- R106: how a result appears on the ports: `Ok(v)` as `dbl_err = 0` and `data_out = v`; the
failure as `dbl_err = 1` and a free draw. DECODE has no other result (R111). The spec says only
that `data_out` is then the free draw FAIL_DATA (00_scope.md R8); that draws are numbered by a
counter which a failure advances by one is the MODEL'S choice (log 4, DESIGN CHOICE). -/
def Obligations.DecodePortMapping : Prop :=
  ∀ (s : State) (c : Code8),
    (∀ v, decodeWord .doc42 c = .ok v →
      exec (.decode c) s = .next { s with dec := some ⟨c, v, false⟩ }) ∧
    (decodeWord .doc42 c = .fail .unrecoverableDoubleError →
      exec (.decode c) s = .next { s with
        dec := some ⟨c, Config.failData s.draws, true⟩, draws := s.draws + 1 }) ∧
    decodeWord .doc42 c ≠ .fail .invalidInput

/-- R107: the post-check does not depend on the candidate, so the whole decision is: no
candidate, the received data; a candidate and odd total parity of the received word, the flipped
data; a candidate and even total parity, failure. 128, 64 and 64 of the 256 words take the three
rows. That a failure counts one draw is the MODEL'S choice (log 4, DESIGN CHOICE), no rule of the
spec. -/
def Obligations.DecodeDecisionByTotalParity : Prop :=
  (∀ (s : State) (c : Code8),
    let total := c.getLsbD 0 ^^ c.getLsbD 1 ^^ c.getLsbD 2 ^^ c.getLsbD 3 ^^ c.getLsbD 4 ^^
      c.getLsbD 5 ^^ c.getLsbD 6 ^^ c.getLsbD 7
    (∀ k, (correct (decodeTrace .doc42 c) k).t = !total) ∧
    (resolve .doc42 (syndromeWord c) = none →
      exec (.decode c) s = .next { s with dec := some ⟨c, receivedData c, false⟩ }) ∧
    ∀ k, resolve .doc42 (syndromeWord c) = some k →
      (total = true → exec (.decode c) s =
        .next { s with dec := some ⟨c, receivedData c ^^^ BitVec.twoPow 4 k, false⟩ }) ∧
      (total = false → ∃ x : Data4, exec (.decode c) s =
        .next { s with dec := some ⟨c, x, true⟩, draws := s.draws + 1 })) ∧
  let words : List Code8 := (List.range 256).map (BitVec.ofNat 8)
  (words.filter fun c => (resolve .doc42 (syndromeWord c)).isNone).length = 128 ∧
  (words.filter fun c => (resolve .doc42 (syndromeWord c)).isSome && totalParity c).length = 64 ∧
  (words.filter fun c => (resolve .doc42 (syndromeWord c)).isSome && !totalParity c).length = 64

/-- R108: for every data word and every single flipped position, what DECODE shows; positions 2 and 4
are miscorrected, and would not be under COVERAGE_CONSISTENT. A row is the position, its match vector,
its candidate, and the mask between the data decoded and the data encoded. -/
def Obligations.SingleErrorOutcomes : Prop :=
  ∀ (s : State) (d : Data4),
    ∀ row ∈ ([(0, 0x6, none, 0x0), (1, 0x5, none, 0x0), (2, 0x4, some 1, 0x3), (3, 0x3, none, 0x0),
      (4, 0x2, some 0, 0x3), (5, 0x1, some 2, 0x0), (6, 0x0, some 3, 0x0), (7, 0x7, none, 0x0)] :
      List (Nat × Match3 × Cand × Data4)),
    ∃ (c : Code8) (t : State),
      exec (.encode d) s = .next t ∧ t.enc = some ⟨d, c⟩ ∧
      let r : Code8 := c ^^^ BitVec.twoPow 8 row.1
      totalParity r = true ∧
      exec (.syndrome r) t = .next { t with syn := some ⟨r, row.2.1⟩ } ∧
      (decodeTrace .doc42 r).cand = row.2.2.1 ∧
      exec (.decode r) t = .next { t with dec := some ⟨r, d ^^^ row.2.2.2, false⟩ } ∧
      decodeWord .coverageConsistent r = .ok d

/-- R109: for every data word and each of the 28 pairs of flipped positions, what DECODE shows,
which does not depend on SYNDROME_MAP. A row is the pair, its match vector, and the mask between
the data decoded and the data encoded, or none where it fails. That a failure counts one draw is
the MODEL'S choice (log 4, DESIGN CHOICE), no rule of the spec. -/
def Obligations.DoubleErrorOutcomes : Prop :=
  let table : List ((Nat × Nat) × Match3 × Option Data4) :=
    [((0, 1), 0x4, none), ((0, 2), 0x5, some 0x1), ((0, 3), 0x2, none), ((0, 4), 0x3, some 0x2),
     ((0, 5), 0x0, none), ((0, 6), 0x1, none), ((0, 7), 0x6, some 0x0)] ++
    [((1, 2), 0x6, some 0x1), ((1, 3), 0x1, none), ((1, 4), 0x0, none), ((1, 5), 0x3, some 0x4),
     ((1, 6), 0x2, none), ((1, 7), 0x5, some 0x0)] ++
    [((2, 3), 0x0, none), ((2, 4), 0x1, none), ((2, 5), 0x2, none), ((2, 6), 0x3, some 0x9),
     ((2, 7), 0x4, none)] ++
    [((3, 4), 0x6, some 0x2), ((3, 5), 0x5, some 0x4), ((3, 6), 0x4, none), ((3, 7), 0x3, some 0x0)] ++
    [((4, 5), 0x4, none), ((4, 6), 0x5, some 0xA), ((4, 7), 0x2, none)] ++
    [((5, 6), 0x6, some 0xC), ((5, 7), 0x1, none)] ++
    [((6, 7), 0x0, none)]
  table.map (·.1) = ((List.range 8).flatMap fun a => (List.range 8).map fun b => (a, b)).filter
    (fun ab => decide (ab.1 < ab.2)) ∧
  (table.filter fun row => row.2.2.isNone).length = 16 ∧
  (table.filter fun row => row.2.2 = some 0x0).length = 3 ∧
  (table.filter fun row => row.2.2.any (· ≠ 0x0)).length = 9 ∧
  ∀ (s : State) (d : Data4), ∀ row ∈ table, ∃ (c : Code8) (t : State),
    exec (.encode d) s = .next t ∧ t.enc = some ⟨d, c⟩ ∧
    let r : Code8 := c ^^^ BitVec.twoPow 8 row.1.1 ^^^ BitVec.twoPow 8 row.1.2
    totalParity r = false ∧
    exec (.syndrome r) t = .next { t with syn := some ⟨r, row.2.1⟩ } ∧
    (∀ m, decodeWord m r = match row.2.2 with
      | some x => .ok (d ^^^ x)
      | none => .fail .unrecoverableDoubleError) ∧
    (∀ x, row.2.2 = some x →
      exec (.decode r) t = .next { t with dec := some ⟨r, d ^^^ x, false⟩ }) ∧
    (row.2.2 = none → ∃ y : Data4,
      exec (.decode r) t = .next { t with dec := some ⟨r, y, true⟩, draws := t.draws + 1 })

/-- R110: on a codeword with ANY error pattern: an odd number of flipped bits never gives a failure; an
even number gives one exactly when the syndrome resolves. -/
def Obligations.OddErrorPatternsNeverFail : Prop :=
  ∀ (s : State) (d : Data4) (e : Code8), ∃ (c : Code8) (t u : State) (p : DecoderPorts),
    exec (.encode d) s = .next t ∧ t.enc = some ⟨d, c⟩ ∧
    exec (.decode (c ^^^ e)) t = .next u ∧ u.dec = some p ∧ p.codeIn = c ^^^ e ∧
    (((List.range 8).filter e.getLsbD).length % 2 = 1 → p.dblErr = false) ∧
    (((List.range 8).filter e.getLsbD).length % 2 = 0 →
      (p.dblErr = true ↔ resolve .doc42 (syndromeWord e) ≠ none))

/-- R112: what ENCODE shows decodes to the data encoded, without failure, under both resolver tables. -/
def Obligations.DecodeOfEncodeIsTheData : Prop :=
  ∀ (s : State) (d : Data4), ∃ (c : Code8) (t : State),
    exec (.encode d) s = .next t ∧ t.enc = some ⟨d, c⟩ ∧
    (∀ m, decodeWord m c = .ok d) ∧
    exec (.decode c) t = .next { t with dec := some ⟨c, d, false⟩ }

/-- R113: a single error in p1, p2 or p3 has no candidate, the data shown is that received, and no
error is reported, under either table. -/
def Obligations.ParityBitBlindSpot : Prop :=
  ∀ (s : State) (d : Data4), ∀ p ∈ [0, 1, 3], ∃ (c : Code8) (t : State),
    exec (.encode d) s = .next t ∧ t.enc = some ⟨d, c⟩ ∧
    let r : Code8 := c ^^^ BitVec.twoPow 8 p
    (∀ m, resolve m (syndromeWord r) = none) ∧
    exec (.decode r) t = .next { t with dec := some ⟨r, d, false⟩ }

/-- 60_exceptions.md R132: DECODE reports the double error exactly when the syndrome resolves and the
received word's total parity is even; ENCODE and SYNDROME leave the decoder's ports, and so its error
line, alone. -/
def Obligations.DoubleErrorRaisedExactlyWhen : Prop :=
  (∀ (s : State) (c : Code8), ∃ (t : State) (p : DecoderPorts),
    exec (.decode c) s = .next t ∧ t.dec = some p ∧ p.codeIn = c ∧
    (p.dblErr = true ↔ (∃ k, resolve .doc42 (syndromeWord c) = some k) ∧
      ((List.range 8).filter c.getLsbD).length % 2 = 0)) ∧
  (∀ (s : State) (d : Data4), ∃ t : State, exec (.encode d) s = .next t ∧ t.dec = s.dec) ∧
  ∀ (s : State) (c : Code8), ∃ t : State, exec (.syndrome c) s = .next t ∧ t.dec = s.dec

/-! ### Frames, independence -/

/-- The frame of all three operations: each completes in every state, changes no port of another
unit, no waiting call and no host result; ENCODE and SYNDROME take no draw, and DECODE takes one
exactly when it shows a failure. The block has no register, flag, memory or program counter
(10_state.md R21 to R25, 20_memory.md R40). The count of draws is the MODEL'S (log 4, DESIGN
CHOICE, after the FAIL_DATA row of 92_eei_decisions.md), so are the waiting calls (log 3) and the
recorded host result (log 12, both DESIGN CHOICE); that the decoder's ports, a failing word's
draw among them, stay while another unit is evaluated is log 14 (DEDUCED). -/
def Obligations.OperationsChangeOwnPortsOnly : Prop :=
  (∀ (s : State) (d : Data4), ∃ t : State, exec (.encode d) s = .next t ∧
    t.syn = s.syn ∧ t.dec = s.dec ∧ t.pending = s.pending ∧ t.lastResult = s.lastResult ∧
    t.draws = s.draws) ∧
  (∀ (s : State) (c : Code8), ∃ t : State, exec (.syndrome c) s = .next t ∧
    t.enc = s.enc ∧ t.dec = s.dec ∧ t.pending = s.pending ∧ t.lastResult = s.lastResult ∧
    t.draws = s.draws) ∧
  ∀ (s : State) (c : Code8), ∃ (t : State) (p : DecoderPorts), exec (.decode c) s = .next t ∧
    t.dec = some p ∧
    t.enc = s.enc ∧ t.syn = s.syn ∧ t.pending = s.pending ∧ t.lastResult = s.lastResult ∧
    t.draws = s.draws + (if p.dblErr then 1 else 0)

/-- 10_state.md R30, 20_memory.md R46: a unit's outputs depend on its input alone: from any two states
the same operation leaves the same levels on the driven unit's ports, but for `data_out` while
`dbl_err = 1`. -/
def Obligations.OutputsDependOnInputAlone : Prop :=
  ∀ (i : Instr) (s s' : State), ∃ t t' : State,
    exec i s = .next t ∧ exec i s' = .next t' ∧
    match i with
    | .encode d => ∃ p, t.enc = some p ∧ t'.enc = some p ∧ p.dataIn = d
    | .syndrome c => ∃ p, t.syn = some p ∧ t'.syn = some p ∧ p.codeIn = c
    | .decode c => ∃ p p', t.dec = some p ∧ t'.dec = some p' ∧ p.codeIn = c ∧ p'.codeIn = c ∧
        p.dblErr = p'.dblErr ∧ (p.dblErr = false → p.dataOut = p'.dataOut)

/-- R49: units do not interact: evaluations of two different units give the same state in either
order. The equality takes in the count of draws and `data_out` during a failure, of which the
spec says nothing (00_scope.md R8): it holds because the MODEL numbers the draws by a counter
(log 4, DESIGN CHOICE) and holds a draw while its word is held (log 14, DEDUCED). -/
def Obligations.DifferentUnitsCommute : Prop :=
  ∀ (i j : Instr) (s : State), i.unit ≠ j.unit → ∃ t t' u : State,
    exec i s = .next t ∧ exec j t = .next u ∧ exec j s = .next t' ∧ exec i t' = .next u

/-- R135, 10_state.md R23: a failure is not sticky: after any decode, decoding `c` leaves what it leaves
in any state, and decoding the same word again gives the same failure or the same data. -/
def Obligations.FailureIsNotSticky : Prop :=
  ∀ (s : State) (c c' : Code8), ∃ (t u v : State) (p q r : DecoderPorts),
    exec (.decode c) s = .next t ∧ t.dec = some p ∧
    exec (.decode c') t = .next u ∧ u.dec = some q ∧
    exec (.decode c) u = .next v ∧ v.dec = some r ∧
    r.dblErr = p.dblErr ∧ (p.dblErr = false → r.dataOut = p.dataOut) ∧
    (c' = c → q.dblErr = p.dblErr) ∧
    (q.dblErr = true ↔ decodeWord .doc42 c' = .fail .unrecoverableDoubleError) ∧
    ∀ w, decodeWord .doc42 c' = .ok w → q.dblErr = false ∧ q.dataOut = w

/-! ### The string adapter -/

/-- 44_host_adapter.md R120: PARSE accepts exactly the strings of `n` symbols '0' and '1', gives the word
whose bit `i` is 1 where character `i` is '1', and rejects every other string with InvalidInput. -/
def Obligations.ParseAcceptsExactlyBinaryStrings : Prop :=
  ∀ n ∈ [4, 8], ∀ str : List Char,
    (str.length = n ∧ (∀ ch ∈ str, ch = '0' ∨ ch = '1') →
      ∃ w : BitVec n, parse n str = .ok w ∧ ∀ i < n, w.getLsbD i = decide (str[i]? = some '1')) ∧
    (¬(str.length = n ∧ ∀ ch ∈ str, ch = '0' ∨ ch = '1') → parse n str = .error .invalidInput)

/-- R121: a step on a waiting host `encode(str)`: a valid string drives the encoder with the word
it spells and records the codeword's string; an invalid one records InvalidInput and evaluates
nothing. That the oldest call is taken off (log 3) and the result kept in `lastResult` (log 12)
are the MODEL'S choices (DESIGN CHOICE), and that the adapter drives the same encoder instance as
a direct call and leaves every port alone on InvalidInput is log 15 (DEDUCED). -/
def Obligations.HostEncodeStep : Prop :=
  ∀ (s : State) (str : List Char) (rest : List HostCall), s.pending = .encode str :: rest →
    (str.length = 4 ∧ (∀ ch ∈ str, ch = '0' ∨ ch = '1') →
      ∃ (d : Data4) (c : Code8) (out : List Char),
        (∀ i < 4, d.getLsbD i = decide (str[i]? = some '1')) ∧
        exec (.encode d) s = .next { s with enc := some ⟨d, c⟩ } ∧
        out.length = 8 ∧ (∀ i < 8, out[i]? = some (if c.getLsbD i then '1' else '0')) ∧
        step s = .next { s with
          enc := some ⟨d, c⟩, pending := rest, lastResult := some (.ok out) }) ∧
    (¬(str.length = 4 ∧ ∀ ch ∈ str, ch = '0' ∨ ch = '1') →
      step s = .next { s with pending := rest, lastResult := some (.failure .invalidInput) })

/-- R122: a step on a waiting host `decode(str)`: a valid string drives the decoder with the word
it spells; with `dbl_err = 0` the string of `data_out` is recorded, with `dbl_err = 1` the
failure; an invalid string records InvalidInput and evaluates nothing. That the oldest call is
taken off (log 3) and the result kept in `lastResult` (log 12) are the MODEL'S choices (DESIGN
CHOICE), and that the adapter drives the same decoder instance as a direct call and leaves every
port alone on InvalidInput is log 15 (DEDUCED). What DECODE leaves on the ports and of the count
of draws is that of `exec` (log 4). -/
def Obligations.HostDecodeStep : Prop :=
  ∀ (s : State) (str : List Char) (rest : List HostCall), s.pending = .decode str :: rest →
    (str.length = 8 ∧ (∀ ch ∈ str, ch = '0' ∨ ch = '1') →
      ∃ (c : Code8) (p : DecoderPorts) (t : State),
        (∀ i < 8, c.getLsbD i = decide (str[i]? = some '1')) ∧
        exec (.decode c) { s with pending := rest } = .next t ∧ t.dec = some p ∧ p.codeIn = c ∧
        (p.dblErr = false → ∃ out : List Char, out.length = 4 ∧
          (∀ i < 4, out[i]? = some (if p.dataOut.getLsbD i then '1' else '0')) ∧
          step s = .next { t with lastResult := some (.ok out) }) ∧
        (p.dblErr = true → step s =
          .next { t with lastResult := some (.failure .unrecoverableDoubleError) })) ∧
    (¬(str.length = 8 ∧ ∀ ch ∈ str, ch = '0' ∨ ch = '1') →
      step s = .next { s with pending := rest, lastResult := some (.failure .invalidInput) })

/-- R123, R133: validation comes first: a malformed string gives InvalidInput and no port of any
unit changes, no draw is taken, and no other error is reported; a well-formed one never gives
InvalidInput. That the call is taken off (log 3), the result recorded (log 12) and draws counted
(log 4) are the MODEL'S choices (DESIGN CHOICE); that every port stays as it was on InvalidInput
is log 15 (DEDUCED). -/
def Obligations.ValidationComesFirst : Prop :=
  ∀ (s : State) (n : Nat) (str : List Char) (rest : List HostCall),
    (n = 4 ∧ s.pending = .encode str :: rest) ∨ (n = 8 ∧ s.pending = .decode str :: rest) →
    ∃ t, step s = .next t ∧ t.pending = rest ∧
      ((¬(str.length = n ∧ ∀ ch ∈ str, ch = '0' ∨ ch = '1')) ↔
        t.lastResult = some (.failure .invalidInput)) ∧
      ((¬(str.length = n ∧ ∀ ch ∈ str, ch = '0' ∨ ch = '1')) →
        t.enc = s.enc ∧ t.syn = s.syn ∧ t.dec = s.dec ∧ t.draws = s.draws)

/-- R124: success and failure are never conflated: the host result of decoding a word is a data string
exactly when DECODE succeeds, and decoding "00000000" is the success "0000". -/
def Obligations.HostResultsNeverConflated : Prop :=
  (∀ (m : SyndromeMap) (c : Code8),
    ((∃ out, hostDecode m (showWord c) = .ok out) ↔ ∃ v, decodeWord m c = .ok v) ∧
    (hostDecode m (showWord c) = .failure .unrecoverableDoubleError ↔
      decodeWord m c = .fail .unrecoverableDoubleError) ∧
    ∀ v, decodeWord m c = .ok v → hostDecode m (showWord c) = .ok (showWord v)) ∧
  ∀ m, hostDecode m (List.replicate 8 '0') = .ok (List.replicate 4 '0')

/-- R121, R122, R112 together: for every string of four binary symbols, a host `encode` and then
a host `decode` of the string it returned give the first string back, whatever the state. That
calls wait in `pending` (log 3) and results in `lastResult` (log 12) are the MODEL'S choices
(DESIGN CHOICE). -/
def Obligations.HostRoundTrip : Prop :=
  ∀ (s : State) (str : List Char), str.length = 4 → (∀ ch ∈ str, ch = '0' ∨ ch = '1') →
    ∃ (cw : List Char) (t u : State),
      step { s with pending := [.encode str] } = .next t ∧ t.lastResult = some (.ok cw) ∧
      step { t with pending := [.decode cw] } = .next u ∧ u.lastResult = some (.ok str)

/-! ### Decoding, stepping, running -/

/-- 30_encoding.md R50, R51, R57: a few input words written out from the formats, on the units that
give them a meaning. -/
def Obligations.WrittenWordsDecode : Prop :=
  decode .hammingEncoder [0b00001101] = .ok (.encode 0b1101, []) ∧
  decode .syndromeCalculator [0b01100111] = .ok (.syndrome 0b01100111, []) ∧
  decode .hammingDecoder [0b01100101] = .ok (.decode 0b01100101, []) ∧
  decode .hammingEncoder [0b00010000] = .error .widerThanPort ∧
  (∀ u, decode u [] = .error .noWord)

/-- Decode and encode agree for every operation, with every operand value: reading an operation's bytes
on its unit gives it back and the bytes after it, and a reading determines unit and bytes. -/
def Obligations.DecodeEncodeAgree : Prop :=
  (∀ (i : Instr) (rest : List Byte), i.wf = true ∧ decode i.unit (encode i ++ rest) = .ok (i, rest)) ∧
  ∀ (u : UnitName) (bytes rest : List Byte) (i : Instr),
    decode u bytes = .ok (i, rest) → i.unit = u ∧ bytes = encode i ++ rest

/-- R57, R58: every 8-bit value put on the two 8-bit ports, and every value below 16 put on the
4-bit port, is a legal operation that completes in a step; a byte the 4-bit port cannot carry is
refused by name (log 8). That the call is taken off is the MODEL'S choice (log 3). -/
def Obligations.EveryPortValueRuns : Prop :=
  ∀ (s : State) (u : UnitName) (w : Byte) (rest : List HostCall), s.pending = .drive u w :: rest →
    (u ≠ .hammingEncoder ∨ w.toNat < 16 → ∃ i t, decode u [w] = .ok (i, []) ∧
      step s = .next t ∧ exec i { s with pending := rest } = .next t ∧ t.pending = rest) ∧
    (u = .hammingEncoder ∧ 16 ≤ w.toNat → step s = .refused (.undecodable .widerThanPort))

/-- A step runs the decoded operation: when the oldest waiting call drives a unit with a byte
that decodes to `i`, the step is `exec i` with that call taken off. That calls wait in a list and
the oldest is taken is the MODEL'S choice (log 3, DESIGN CHOICE). -/
def Obligations.StepRunsTheDrivenOperation : Prop :=
  ∀ (s : State) (u : UnitName) (w : Byte) (rest : List HostCall) (i : Instr),
    s.pending = .drive u w :: rest → decode u [w] = .ok (i, []) →
    step s = exec i { s with pending := rest }

/-- With no host call waiting the inputs are held and a step changes nothing (the model's choice, log
10, after 44_host_adapter.md R125 and 60_exceptions.md R134). -/
def Obligations.IdleStepHoldsThePorts : Prop :=
  ∀ s : State, s.pending = [] → step s = .next s

/-- R134: a failing decode is a result, not a stop: the machine goes on, `dbl_err` stays 1 while
the word is held, and the next waiting call is performed. That the next waiting call is then
performed is the MODEL'S choice (log 3, DESIGN CHOICE), and that the decoder's ports, `data_out`
during the failure among them, stay meanwhile is log 14 (DEDUCED). -/
def Obligations.FailureDoesNotStopTheMachine : Prop :=
  ∀ (s : State) (c : Code8) (d : Data4),
    decodeWord .doc42 c = .fail .unrecoverableDoubleError →
    s.pending = [.drive .hammingDecoder c, .drive .hammingEncoder (d.setWidth 8)] →
    ∃ (t u : State) (p : DecoderPorts) (x : Code8),
      step s = .next t ∧ t.dec = some p ∧ p.codeIn = c ∧ p.dblErr = true ∧
      step t = .next u ∧ u.dec = some p ∧ u.enc = some ⟨d, x⟩ ∧ u.pending = []

/-- 10_state.md R32, 70_reset_and_hazards.md R150: at power-up no input is applied and no output is
specified. That no host call waits, that no result is recorded and that no draw is counted are the
model's choices (log 3, log 4). -/
def Obligations.ResetAppliesNothing : Prop :=
  Sys2Proof.core.reset = State.reset ∧ State.reset.enc = none ∧ State.reset.syn = none ∧
  State.reset.dec = none ∧ State.reset.pending = [] ∧ State.reset.lastResult = none

/-- 60_exceptions.md R130: the two error kinds and their codes are all there are. -/
def Obligations.ErrorKindsAndCodes : Prop :=
  errorCode none = 0 ∧ errorCode (some .invalidInput) = 1 ∧
  errorCode (some .unrecoverableDoubleError) = 2 ∧
  ∀ e : ErrorKind, e = .invalidInput ∨ e = .unrecoverableDoubleError

/-- 10_state.md R32: at power-up the ports follow their inputs. -/
def Obligations.PortsFollowAtReset : Prop :=
  State.PortsFollow State.reset

/-- R30, R32: in every reachable and unreachable state where every unit's outputs are the function of
its applied input, they still are after any step. -/
def Obligations.StepKeepsPortsFollowing : Prop :=
  ∀ s t : State, State.PortsFollow s → step s = .next t → State.PortsFollow t

/-- 70_reset_and_hazards.md R156, R157: every evaluation ends: from a state whose ports follow
and whose waiting calls fit their ports, the machine never stops, its ports follow throughout,
and after as many steps as calls wait, none waits. That calls wait in a list which the steps
drain in order is the MODEL'S choice (log 3, DESIGN CHOICE), and that steps past the last call go
on and change nothing is log 10 (DEDUCED). -/
def Obligations.EveryWaitingCallIsPerformed : Prop :=
  ∀ s : State, State.PortsFollow s → State.CallsFit s →
    SafeRun s ∧ ∃ t : State, Sys2Proof.core.run s.pending.length s = .next t ∧ t.pending = []

/-- 20_memory.md R46, R49: over any number of steps, nothing applied to the decoder, now or
before, and no draw it took, can be seen at the other units or in what the host is told: two
states that differ only there run alike. That calls wait in `pending`, one performed a step, and
results in `lastResult` are the MODEL'S choices (log 3, log 6, log 12, DESIGN CHOICE), and that
steps past the last call go on is log 10 (DEDUCED). -/
def Obligations.DecoderCannotInfluenceOthers : Prop :=
  ∀ (k : Nat) (s s' : State), s.enc = s'.enc → s.syn = s'.syn → s.pending = s'.pending →
    s.lastResult = s'.lastResult →
    (∃ t t' : State, Sys2Proof.core.run k s = .next t ∧ Sys2Proof.core.run k s' = .next t' ∧
      t.enc = t'.enc ∧ t.syn = t'.syn ∧ t.pending = t'.pending ∧ t.lastResult = t'.lastResult) ∨
    ∃ r : Refusal, Sys2Proof.core.run k s = .refused r ∧ Sys2Proof.core.run k s' = .refused r
end

