-- ==== Sys2Proof/Laws/Decode.lean ====
section
/-! SUPPORT. When a driven byte is an operation. -/

namespace Sys2Proof

/-- A driven byte is an operation exactly when it fits the port. -/
theorem decodeDrive_isOk_iff (u : UnitName) (w : Byte) :
    (∃ i, decodeDrive u w = .ok i) ↔ fitsPort u w = true := by
  cases h : fitsPort u w <;> cases u <;> simp [decodeDrive, h]

/-- A driven byte is rejected only because it is wider than the port. -/
theorem decodeDrive_error {u : UnitName} {w : Byte} {e : DecodeError}
    (h : decodeDrive u w = .error e) : e = .widerThanPort ∧ fitsPort u w = false := by
  cases hf : fitsPort u w <;> cases u <;> simp_all [decodeDrive]

/-- The operation decoded is the driven unit's own. -/
theorem decodeDrive_unit {u : UnitName} {w : Byte} {i : Instr} (h : decodeDrive u w = .ok i) :
    i.unit = u := by
  cases hf : fitsPort u w <;> cases u <;> simp [decodeDrive, hf] at h <;> subst h <;> rfl

end Sys2Proof
end

