-- ==== Sys2Proof/Laws/Host.lean ====
section
/-! SUPPORT. The string adapter: what PARSE accepts, and that SHOW and PARSE undo each other. -/

namespace Sys2Proof.Machine

theorem isBinary_iff (ch : Char) : isBinary ch = true ↔ ch = '0' ∨ ch = '1' := by
  simp [isBinary]

/-- A string PARSE rejects is rejected with `InvalidInput`. -/
theorem parse_error {n : Nat} {str : List Char} {e : ErrorKind} (h : parse n str = .error e) :
    e = .invalidInput := by
  unfold parse at h
  split at h
  · simpa using h.symm
  · split at h
    · cases h
    · simpa using h.symm

/-- PARSE accepts exactly the strings of `n` binary symbols (44_host_adapter.md R120). -/
theorem parse_isOk_iff (n : Nat) (str : List Char) :
    (∃ w, parse n str = .ok w) ↔ str.length = n ∧ ∀ ch ∈ str, isBinary ch = true := by
  by_cases hl : str.length = n
  · by_cases hb : str.all isBinary = true
    · simp only [parse, hl, hb, ne_eq, not_true_eq_false, if_true, if_false]
      simpa using hb
    · simp only [parse, hl, hb, ne_eq, not_true_eq_false, if_false]
      simpa using hb
  · simp [parse, hl]

@[simp] theorem length_showWord {n : Nat} (w : BitVec n) : (showWord w).length = n := by
  simp [showWord]

/-- Character `i` of SHOW is bit `i` (44_host_adapter.md R121). -/
theorem getElem?_showWord {n : Nat} (w : BitVec n) {i : Nat} (h : i < n) :
    (showWord w)[i]? = some (if w.getLsbD i then '1' else '0') := by
  simp [showWord, h, bit]

end Sys2Proof.Machine
end

