-- ==== Sys2Proof/Laws/State.lean ====
section
/-! SUPPORT. One lemma for each field and each update of State, so that no proof unfolds an update. -/

namespace Sys2Proof.Machine

variable (s : State)

@[simp] theorem State.setEncoder_enc (p : EncoderPorts) : (s.setEncoder p).enc = some p := rfl
@[simp] theorem State.setEncoder_syn (p : EncoderPorts) : (s.setEncoder p).syn = s.syn := rfl
@[simp] theorem State.setEncoder_dec (p : EncoderPorts) : (s.setEncoder p).dec = s.dec := rfl
@[simp] theorem State.setEncoder_pending (p : EncoderPorts) : (s.setEncoder p).pending = s.pending := rfl
@[simp] theorem State.setEncoder_lastResult (p : EncoderPorts) : (s.setEncoder p).lastResult = s.lastResult := rfl
@[simp] theorem State.setEncoder_draws (p : EncoderPorts) : (s.setEncoder p).draws = s.draws := rfl

@[simp] theorem State.setSyndrome_enc (p : SyndromePorts) : (s.setSyndrome p).enc = s.enc := rfl
@[simp] theorem State.setSyndrome_syn (p : SyndromePorts) : (s.setSyndrome p).syn = some p := rfl
@[simp] theorem State.setSyndrome_dec (p : SyndromePorts) : (s.setSyndrome p).dec = s.dec := rfl
@[simp] theorem State.setSyndrome_pending (p : SyndromePorts) : (s.setSyndrome p).pending = s.pending := rfl
@[simp] theorem State.setSyndrome_lastResult (p : SyndromePorts) : (s.setSyndrome p).lastResult = s.lastResult := rfl
@[simp] theorem State.setSyndrome_draws (p : SyndromePorts) : (s.setSyndrome p).draws = s.draws := rfl

@[simp] theorem State.setDecoder_enc (p : DecoderPorts) : (s.setDecoder p).enc = s.enc := rfl
@[simp] theorem State.setDecoder_syn (p : DecoderPorts) : (s.setDecoder p).syn = s.syn := rfl
@[simp] theorem State.setDecoder_dec (p : DecoderPorts) : (s.setDecoder p).dec = some p := rfl
@[simp] theorem State.setDecoder_pending (p : DecoderPorts) : (s.setDecoder p).pending = s.pending := rfl
@[simp] theorem State.setDecoder_lastResult (p : DecoderPorts) : (s.setDecoder p).lastResult = s.lastResult := rfl
@[simp] theorem State.setDecoder_draws (p : DecoderPorts) : (s.setDecoder p).draws = s.draws := rfl

@[simp] theorem State.setPending_enc (calls : List HostCall) : (s.setPending calls).enc = s.enc := rfl
@[simp] theorem State.setPending_syn (calls : List HostCall) : (s.setPending calls).syn = s.syn := rfl
@[simp] theorem State.setPending_dec (calls : List HostCall) : (s.setPending calls).dec = s.dec := rfl
@[simp] theorem State.setPending_pending (calls : List HostCall) : (s.setPending calls).pending = calls := rfl
@[simp] theorem State.setPending_lastResult (calls : List HostCall) : (s.setPending calls).lastResult = s.lastResult := rfl
@[simp] theorem State.setPending_draws (calls : List HostCall) : (s.setPending calls).draws = s.draws := rfl

@[simp] theorem State.setResult_enc (r : HostResult) : (s.setResult r).enc = s.enc := rfl
@[simp] theorem State.setResult_syn (r : HostResult) : (s.setResult r).syn = s.syn := rfl
@[simp] theorem State.setResult_dec (r : HostResult) : (s.setResult r).dec = s.dec := rfl
@[simp] theorem State.setResult_pending (r : HostResult) : (s.setResult r).pending = s.pending := rfl
@[simp] theorem State.setResult_lastResult (r : HostResult) : (s.setResult r).lastResult = some r := rfl
@[simp] theorem State.setResult_draws (r : HostResult) : (s.setResult r).draws = s.draws := rfl

@[simp] theorem State.countDraw_enc : s.countDraw.enc = s.enc := rfl
@[simp] theorem State.countDraw_syn : s.countDraw.syn = s.syn := rfl
@[simp] theorem State.countDraw_dec : s.countDraw.dec = s.dec := rfl
@[simp] theorem State.countDraw_pending : s.countDraw.pending = s.pending := rfl
@[simp] theorem State.countDraw_lastResult : s.countDraw.lastResult = s.lastResult := rfl
@[simp] theorem State.countDraw_draws : s.countDraw.draws = s.draws + 1 := rfl

@[simp] theorem State.pushDrive_pending (u : UnitName) (w : Byte) :
    (s.pushDrive u w).pending = .drive u w :: s.pending := rfl

end Sys2Proof.Machine
end

