-- ==== Sys2Proof/Laws/Words.lean ====
section
/-! SUPPORT. What the functions on words do, bit by bit: later proofs cite these and unfold none of
them. -/

namespace Sys2Proof.Machine

@[simp] theorem bit_eq {n : Nat} (w : BitVec n) (i : Nat) : bit w i = w.getLsbD i := rfl

@[simp] theorem mod2Sum_nil : mod2Sum [] = false := rfl

@[simp] theorem mod2Sum_cons (b : Bit) (bits : List Bit) :
    mod2Sum (b :: bits) = xor b (mod2Sum bits) := rfl

/-- Flipping a bit twice gives the word back. -/
@[simp] theorem flip_flip {n : Nat} (w : BitVec n) (i : Nat) : flip (flip w i) i = w := by
  simp [flip]

/-- `PARITY` as the three sums of 40_parity.md R71. -/
theorem parity_eq (d : Data4) :
    parity d = ⟨xor (d.getLsbD 0) (xor (d.getLsbD 1) (d.getLsbD 3)),
      xor (d.getLsbD 0) (xor (d.getLsbD 2) (d.getLsbD 3)),
      xor (d.getLsbD 1) (xor (d.getLsbD 2) (d.getLsbD 3))⟩ := by
  simp [parity, parityBit, coverage]

theorem getLsbD_receivedData (c : Code8) (i : Nat) :
    (receivedData c).getLsbD i =
      [c.getLsbD 2, c.getLsbD 4, c.getLsbD 5, c.getLsbD 6].getD i false := by
  simp only [receivedData, bit_eq]
  exact BitVec.getLsbD_ofBoolListLE

theorem getLsbD_assemble (p : Parity) (d : Data4) (op : Bit) (i : Nat) :
    (assemble p d op).getLsbD i =
      [p.p1, p.p2, d.getLsbD 0, p.p3, d.getLsbD 1, d.getLsbD 2, d.getLsbD 3, op].getD i false := by
  simp only [assemble, bit_eq]
  exact BitVec.getLsbD_ofBoolListLE

theorem getLsbD_matchVector (rp ep : Parity) (i : Nat) :
    (matchVector rp ep).getLsbD i =
      [rp.p1 == ep.p1, rp.p2 == ep.p2, rp.p3 == ep.p3].getD i false := by
  simp only [matchVector]
  exact BitVec.getLsbD_ofBoolListLE

/-- Extraction reads back what assembly wrote (30_encoding.md R53, R55). -/
theorem receivedData_assemble (p : Parity) (d : Data4) (op : Bit) :
    receivedData (assemble p d op) = d := by
  apply BitVec.eq_of_getLsbD_eq
  intro i hi
  rw [getLsbD_receivedData]
  obtain rfl | rfl | rfl | rfl : i = 0 ∨ i = 1 ∨ i = 2 ∨ i = 3 := by omega
  all_goals simp only [List.getD_cons_zero, List.getD_cons_succ, getLsbD_assemble]

theorem receivedParity_assemble (p : Parity) (d : Data4) (op : Bit) :
    receivedParity (assemble p d op) = p := by
  simp only [receivedParity, bit_eq, List.getD_cons_zero, List.getD_cons_succ, getLsbD_assemble]

/-- Whether a match vector resolves to a candidate does not depend on the resolver table. -/
theorem resolve_isNone_eq (m m' : SyndromeMap) (syn : Match3) :
    (resolve m syn).isNone = (resolve m' syn).isNone := by
  cases m <;> cases m' <;> revert syn <;> decide

/-- An even post-check total accepts the correction (43_decoder.md R105). -/
theorem postCheck_even {x : Correction} (h : x.t = false) : postCheck x = .ok x.dcor := by
  simp [postCheck, h]

/-- An odd post-check total fails (43_decoder.md R105). -/
theorem postCheck_odd {x : Correction} (h : x.t = true) :
    postCheck x = .fail .unrecoverableDoubleError := by
  simp [postCheck, raise, h]

/-- Everything a decode can answer: the received data, a correction, or the one failure. -/
theorem decodeWord_cases (m : SyndromeMap) (c : Code8) :
    (resolve m (syndromeWord c) = none ∧ decodeWord m c = .ok (receivedData c)) ∨
    (∃ k, resolve m (syndromeWord c) = some k ∧
      (correct (decodeTrace m c) k).t = false ∧
      decodeWord m c = .ok (flip (receivedData c) k)) ∨
    (∃ k, resolve m (syndromeWord c) = some k ∧
      (correct (decodeTrace m c) k).t = true ∧
      decodeWord m c = .fail .unrecoverableDoubleError) := by
  cases hr : resolve m (syndromeWord c) with
  | none => exact .inl ⟨rfl, by simp [decodeWord, decodeTrace, hr]⟩
  | some k =>
    cases ht : (correct (decodeTrace m c) k).t with
    | false =>
      refine .inr (.inl ⟨k, rfl, ht, ?_⟩)
      simp only [decodeWord]
      rw [show (decodeTrace m c).cand = some k from hr]
      exact postCheck_even ht
    | true =>
      refine .inr (.inr ⟨k, rfl, ht, ?_⟩)
      simp only [decodeWord]
      rw [show (decodeTrace m c).cand = some k from hr]
      exact postCheck_odd ht

end Sys2Proof.Machine
end

