-- ==== Sys2Proof/Laws/Ops.lean ====
section
/-! SUPPORT. What the shared operations do, once. -/

namespace Sys2Proof.Machine

/-- A successful result on the decoder's ports (43_decoder.md R106). -/
theorem presentResult_ok (c : Code8) (v : Data4) (s : State) :
    presentResult c (.ok v) s = s.setDecoder ⟨c, v, false⟩ := rfl

/-- A failure on the decoder's ports: `dbl_err = 1` and a fresh draw (R106). -/
theorem presentResult_fail (c : Code8) (s : State) :
    presentResult c (.fail .unrecoverableDoubleError) s =
      (s.setDecoder ⟨c, Config.failData s.draws, true⟩).countDraw := rfl

/-- Whatever the result, only the decoder's ports and the count of draws may change. -/
theorem presentResult_frame (c : Code8) (r : Result) (s : State) :
    (presentResult c r s).enc = s.enc ∧ (presentResult c r s).syn = s.syn ∧
      (presentResult c r s).pending = s.pending ∧
      (presentResult c r s).lastResult = s.lastResult := by
  cases r <;> simp [presentResult]

/-- Everything a fetch can answer. -/
theorem fetch_cases (s : State) :
    (s.pending = [] ∧ fetch s = .idle s) ∨
    (∃ u w i rest, s.pending = .drive u w :: rest ∧ decodeDrive u w = .ok i ∧
      fetch s = .run i (s.setPending rest)) ∨
    (∃ u w e rest, s.pending = .drive u w :: rest ∧ decodeDrive u w = .error e ∧
      fetch s = .undecodable e) ∨
    (∃ str rest, s.pending = .encode str :: rest ∧
      fetch s = .hostEncode str (s.setPending rest)) ∨
    (∃ str rest, s.pending = .decode str :: rest ∧
      fetch s = .hostDecode str (s.setPending rest)) := by
  cases hp : s.pending with
  | nil => exact .inl ⟨rfl, by simp [fetch, hp]⟩
  | cons call rest =>
    cases call with
    | drive u w =>
      cases hd : decodeDrive u w with
      | ok i => exact .inr (.inl ⟨u, w, i, rest, rfl, hd, by simp [fetch, hp, hd]⟩)
      | error e => exact .inr (.inr (.inl ⟨u, w, e, rest, rfl, hd, by simp [fetch, hp, hd]⟩))
    | encode str => exact .inr (.inr (.inr (.inl ⟨str, rest, rfl, by simp [fetch, hp]⟩)))
    | decode str => exact .inr (.inr (.inr (.inr ⟨str, rest, rfl, by simp [fetch, hp]⟩)))

end Sys2Proof.Machine
end

