-- ==== Sys2Proof/Laws/PerInstr.lean ====
section
/-! SUPPORT. A fact about every operation as syntax, one lemma for each constructor. -/

namespace Sys2Proof.Laws.PortWidth

/-- The byte put on the port for an operation fits that operation's unit (10_state.md R26 to R28). -/
def Statement (i : Instr) : Prop := fitsPort i.unit (encodeDrive i) = true

theorem encode (d : Data4) : Statement (.encode d) := by
  have h := d.isLt
  simp [Statement, fitsPort, Instr.unit, UnitName.inWidth, encodeDrive]
  omega

theorem syndrome (c : Code8) : Statement (.syndrome c) :=
  decide_eq_true c.isLt

theorem decode (c : Code8) : Statement (.decode c) :=
  decide_eq_true c.isLt

end Sys2Proof.Laws.PortWidth
end

