-- ==== Sys2Proof/Laws/Step.lean ====
section
/-! SUPPORT. Once, everything a step can do. -/

namespace Sys2Proof.Machine

theorem exec_encode (d : Data4) (s : State) : exec (.encode d) s = .next (applyEncode d s) := rfl

theorem exec_syndrome (c : Code8) (s : State) :
    exec (.syndrome c) s = .next (applySyndrome c s) := rfl

theorem exec_decode (c : Code8) (s : State) : exec (.decode c) s = .next (applyDecode c s) := rfl

/-- If a step answers a next state, one of these happened: nothing waited; a unit was driven; the host
called `encode`; the host called `decode`. -/
theorem step_cases {s t : State} (h : step s = .next t) :
    (s.pending = [] ∧ t = s) ∨
    (∃ u w i rest, s.pending = .drive u w :: rest ∧ decodeDrive u w = .ok i ∧
      exec i (s.setPending rest) = .next t) ∨
    (∃ str rest, s.pending = .encode str :: rest ∧ t = callEncode str (s.setPending rest)) ∨
    (∃ str rest, s.pending = .decode str :: rest ∧ t = callDecode str (s.setPending rest)) := by
  rcases fetch_cases s with ⟨hp, hf⟩ | ⟨u, w, i, rest, hp, hd, hf⟩ | ⟨u, w, e, rest, hp, hd, hf⟩ |
    ⟨str, rest, hp, hf⟩ | ⟨str, rest, hp, hf⟩
  · simp only [step, hf, idle] at h
    exact .inl ⟨hp, by cases h; rfl⟩
  · simp only [step, hf] at h
    exact .inr (.inl ⟨u, w, i, rest, hp, hd, h⟩)
  · simp only [step, hf] at h
    cases h
  · simp only [step, hf] at h
    exact .inr (.inr (.inl ⟨str, rest, hp, by cases h; rfl⟩))
  · simp only [step, hf] at h
    exact .inr (.inr (.inr ⟨str, rest, hp, by cases h; rfl⟩))

/-- A step is refused only for a driven byte that does not fit its port. -/
theorem step_refused {s : State} {r : Refusal} (h : step s = .refused r) :
    r = .undecodable .widerThanPort ∧
      ∃ u w rest, s.pending = .drive u w :: rest ∧ fitsPort u w = false := by
  rcases fetch_cases s with ⟨hp, hf⟩ | ⟨u, w, i, rest, hp, hd, hf⟩ | ⟨u, w, e, rest, hp, hd, hf⟩ |
    ⟨str, rest, hp, hf⟩ | ⟨str, rest, hp, hf⟩
  · simp only [step, hf] at h
    cases h
  · simp only [step, hf] at h
    cases i <;> cases h
  · simp only [step, hf] at h
    obtain ⟨rfl, hw⟩ := decodeDrive_error hd
    exact ⟨by cases h; rfl, u, w, rest, hp, hw⟩
  · simp only [step, hf] at h
    cases h
  · simp only [step, hf] at h
    cases h

end Sys2Proof.Machine
end

