-- ==== Sys2Proof/Laws/Units.lean ====
section
/-! SUPPORT. What applying a word to a unit, and a host call, leave of the state: all cases, once. -/

namespace Sys2Proof.Machine

theorem applyEncode_eq (d : Data4) (s : State) :
    applyEncode d s = s.setEncoder ⟨d, encodeWord d⟩ := rfl

theorem applySyndrome_eq (c : Code8) (s : State) :
    applySyndrome c s = s.setSyndrome ⟨c, syndromeWord c⟩ := rfl

/-- A decode leaves its data on the ports, or its failure with a fresh draw. -/
theorem applyDecode_cases (c : Code8) (s : State) :
    (∃ v, decodeWord syndromeMap c = .ok v ∧ applyDecode c s = s.setDecoder ⟨c, v, false⟩) ∨
    (decodeWord syndromeMap c = .fail .unrecoverableDoubleError ∧
      applyDecode c s = (s.setDecoder ⟨c, Config.failData s.draws, true⟩).countDraw) := by
  rcases decodeWord_cases syndromeMap c with ⟨-, h⟩ | ⟨k, -, -, h⟩ | ⟨k, -, -, h⟩
  · exact .inl ⟨_, h, by rw [applyDecode, h, presentResult_ok]⟩
  · exact .inl ⟨_, h, by rw [applyDecode, h, presentResult_ok]⟩
  · exact .inr ⟨h, by rw [applyDecode, h, presentResult_fail]⟩

/-- A decode changes nothing but the decoder's ports and the count of draws. -/
theorem applyDecode_frame (c : Code8) (s : State) :
    (applyDecode c s).enc = s.enc ∧ (applyDecode c s).syn = s.syn ∧
      (applyDecode c s).pending = s.pending ∧ (applyDecode c s).lastResult = s.lastResult :=
  presentResult_frame c _ s

/-- Everything PARSE can answer. -/
theorem parse_cases (n : Nat) (str : List Char) :
    (∃ w, parse n str = .ok w ∧ str.length = n ∧ ∀ ch ∈ str, isBinary ch = true) ∨
    (parse n str = .error .invalidInput ∧
      ¬(str.length = n ∧ ∀ ch ∈ str, isBinary ch = true)) := by
  cases h : parse n str with
  | ok w => exact .inl ⟨w, rfl, (parse_isOk_iff n str).1 ⟨w, h⟩⟩
  | error e =>
    refine .inr ⟨by rw [parse_error h], fun hb => ?_⟩
    obtain ⟨w, hw⟩ := (parse_isOk_iff n str).2 hb
    rw [hw] at h
    cases h

/-- A host `encode` records InvalidInput and evaluates nothing, or drives the encoder. -/
theorem callEncode_cases (str : List Char) (s : State) :
    (parse 4 str = .error .invalidInput ∧
      callEncode str s = s.setResult (.failure .invalidInput)) ∨
    (∃ d, parse 4 str = .ok d ∧
      callEncode str s = (applyEncode d s).setResult (.ok (showWord (encodeWord d)))) := by
  rcases parse_cases 4 str with ⟨d, h, -⟩ | ⟨h, -⟩
  · exact .inr ⟨d, h, by simp [callEncode, hostEncode, h]⟩
  · exact .inl ⟨h, by simp [callEncode, hostEncode, h]⟩

/-- A host `decode` records InvalidInput and evaluates nothing, or drives the decoder. -/
theorem callDecode_cases (str : List Char) (s : State) :
    (parse 8 str = .error .invalidInput ∧
      callDecode str s = s.setResult (.failure .invalidInput)) ∨
    (∃ c, parse 8 str = .ok c ∧ callDecode str s =
      (applyDecode c s).setResult (hostResultOf (decodeWord syndromeMap c))) := by
  rcases parse_cases 8 str with ⟨c, h, -⟩ | ⟨h, -⟩
  · exact .inr ⟨c, h, by simp [callDecode, hostDecode, h]⟩
  · exact .inl ⟨h, by simp [callDecode, hostDecode, h]⟩

end Sys2Proof.Machine
end

