-- ==== Sys2Proof/Tests/Slice0.lean ====
section
/-! SUPPORT. Tests: checks that refuse ill-formed terms, words written out from the formats, the spec's
own vectors (95_test_vectors.md), and a witness for the hypotheses of every statement that has some. -/

namespace Sys2Proof.Tests.Slice0

open Sys2Proof Sys2Proof.Machine

/-- The next state of an outcome, if it is one. -/
def nextOf (o : Host.Outcome State Fault Refusal) : Option State :=
  match o with
  | .next s => some s
  | .fault _ => none
  | .refused _ => none

/-- The power-up state with these host calls waiting. -/
def waiting (calls : List HostCall) : State := State.reset.setPending calls

/-- The decoder's outputs a consumer may read after `o`: the data word, or `none` on a failure. -/
def readDecoder (o : Host.Outcome State Fault Refusal) : Option (Option Data4) :=
  match nextOf o with
  | some s => s.dec.map fun p => if p.dblErr then none else some p.dataOut
  | none => none

/-! ### The checks refuse ill-formed terms -/

theorem test_fitsPort_refuses_wide : fitsPort .hammingEncoder 0x10 = false := by decide
theorem test_fitsPort_accepts : fitsPort .hammingEncoder 0x0F = true ∧
    fitsPort .hammingDecoder 0xFF = true := by decide
theorem test_callWf_refuses_wide : (HostCall.drive .hammingEncoder 0x80).wf = false := by decide
theorem test_wide_drive_is_refused :
    decode .hammingEncoder [0x10] = .error .widerThanPort := by decide
theorem test_no_byte_is_refused : decode .hammingDecoder [] = .error .noWord := by decide
theorem test_every_instr_wf (i : Instr) : i.wf = true := by cases i <;> rfl

/-! ### Words written out from R50 and R51, MSB first: `d4 d3 d2 d1` and `op d4 d3 d2 p3 d1 p2 p1` -/

/-- "1011": d1 = 1, d2 = 0, d3 = 1, d4 = 1. -/
theorem test_decode_encode_word :
    decode .hammingEncoder [0b00001101] = .ok (.encode 0xD, []) := by decide
/-- "11100110": p1 p2 d1 p3 d2 d3 d4 op = 1 1 1 0 0 1 1 0. -/
theorem test_decode_syndrome_word :
    decode .syndromeCalculator [0b01100111] = .ok (.syndrome 0x67, []) := by decide
/-- "10100110": p1 p2 d1 p3 d2 d3 d4 op = 1 0 1 0 0 1 1 0. -/
theorem test_decode_decode_word :
    decode .hammingDecoder [0b01100101, 0xAA] = .ok (.decode 0x65, [0xAA]) := by decide
theorem test_table_word_of_encode : decodeTableWord 4 0xD = some (.encode 0xD) := by decide
theorem test_table_word_of_decode : decodeTableWord 8 0x65 = some (.decode 0x65) := by decide
theorem test_fetch_word_runs :
    (nextOf (step (State.reset.withFetchWord 4 0xD))).bind (·.enc) = some ⟨0xD, 0x66⟩ := by decide

/-! ### The spec's vectors -/

/-- 95_test_vectors.md L1. -/
theorem test_encode_L1 :
    (nextOf (exec (.encode 0xD) State.reset)).bind (·.enc) = some ⟨0xD, 0x66⟩ := by decide
/-- The column of code words in 95_test_vectors.md section 2.1. -/
theorem test_encode_table :
    (List.range 16).map (fun d => encodeWord (BitVec.ofNat 4 d)) =
      [0x00, 0x87, 0x99, 0x1E, 0xAA, 0x2D, 0x33, 0xB4, 0x4B, 0xCC, 0xD2, 0x55, 0xE1, 0x66, 0x78,
        0xFF] := by decide
/-- 95_test_vectors.md section 2.2, `"11100110"`. -/
theorem test_syndrome_67 :
    (nextOf (exec (.syndrome 0x67) State.reset)).bind (·.syn) = some ⟨0x67, 0x6⟩ := by decide
/-- One row for each match vector of 95_test_vectors.md section 2.2. -/
theorem test_syndrome_table :
    [0x80, 0x01, 0x02, 0x04, 0x08, 0x10, 0x20, 0x40].map syndromeWord =
      [0x7, 0x6, 0x5, 0x4, 0x3, 0x2, 0x1, 0x0] := by decide
/-- L2, L3, the miscorrected word of Program 2, and L4. -/
theorem test_decode_vectors :
    [0x66, 0x67, 0x62, 0x65].map (fun c => readDecoder (exec (.decode c) State.reset)) =
      [some (some 0xD), some (some 0xD), some (some 0xE), some none] := by decide
/-- Rows of 95_test_vectors.md section 2.3 and 2.6 taken across its table. -/
theorem test_decode_rows :
    [0x0B, 0x34, 0x32, 0xF8, 0x44, 0x81, 0x9D, 0xC7, 0xEF, 0x7C].map (decodeWord .doc42) =
      [.ok 0x8, .ok 0x7, .ok 0x6, .ok 0xE, .ok 0x9, .ok 0x0, .ok 0x1, .ok 0x1, .ok 0xC, .ok 0xD] := by
  decide

/-- 95_test_vectors.md section 2.7. -/
theorem test_host_encode_invalid :
    [[], ['1', '0', '1'], ['1', '0', '1', '1', '0'], ['1', '0', 'a', '1'], [' ', '1', '0', '1', '1'],
      ['1', 'O', '1', '1']].map hostEncode = List.replicate 6 (.failure .invalidInput) := by decide
/-- L5. -/
theorem test_host_encode_L5 :
    hostEncode ['0', '1', '0', '1'] = .ok ['0', '1', '0', '0', '1', '0', '1', '1'] := by decide
/-- Section 2.7. -/
theorem test_host_decode_invalid :
    [[], ['0', '1', '1', '0', '0', '1', '1'], ['0', '1', '1', '0', '0', '1', '1', 'x'],
      ['0', '1', '1', '0', ' ', '1', '1', '0']].map (hostDecode .doc42) =
      List.replicate 4 (.failure .invalidInput) := by decide
/-- L7, L8 and the all-zero success of R124. -/
theorem test_host_decode_vectors :
    hostDecode .doc42 ['1', '1', '0', '0', '1', '0', '1', '1'] = .ok ['0', '1', '0', '1'] ∧
    hostDecode .doc42 ['1', '0', '0', '0', '1', '0', '1', '1'] =
      .failure .unrecoverableDoubleError ∧
    hostDecode .doc42 (List.replicate 8 '0') = .ok (List.replicate 4 '0') := by decide

/-! ### Witnesses: states and operands that meet the hypotheses of the statements -/

theorem witness_EncodeMinimumDistanceFour : (0x0 : Data4) ≠ 0x1 := by decide

theorem witness_DecodeFollowsTheProcedure :
    decodeWord .doc42 0x66 = .ok 0xD ∧ decodeWord .doc42 0x62 = .ok 0xE ∧
    decodeWord .doc42 0x65 = .fail .unrecoverableDoubleError := by decide

/-- Position 7 clear and set. -/
theorem witness_NoCandidateReturnsReceivedData :
    resolve .doc42 (syndromeWord 0x66) = none ∧ resolve .doc42 (syndromeWord 0xE6) = none := by decide

/-- The lowest and highest candidate, an accepted and a failing post-check. -/
theorem witness_PostCheckDecidesTheCorrection :
    resolve .doc42 (syndromeWord 0x10) = some 0 ∧ (correct (decodeTrace .doc42 0x10) 0).t = false ∧
    resolve .doc42 (syndromeWord 0xC0) = some 3 ∧ (correct (decodeTrace .doc42 0xC0) 3).t = true := by
  decide

theorem witness_DecodePortMapping :
    decodeWord .doc42 0x00 = .ok 0x0 ∧
    decodeWord .doc42 0x03 = .fail .unrecoverableDoubleError := by decide

/-- The three rows of the decision. -/
theorem witness_DecodeDecisionByTotalParity :
    resolve .doc42 (syndromeWord 0x01) = none ∧
    (resolve .doc42 (syndromeWord 0x04) = some 1 ∧ totalParity 0x04 = true) ∧
    (resolve .doc42 (syndromeWord 0x03) = some 1 ∧ totalParity 0x03 = false) := by decide

/-- Odd patterns; even ones that resolve and that do not. -/
theorem witness_OddErrorPatternsNeverFail :
    ((List.range 8).filter (0x0B : Code8).getLsbD).length % 2 = 1 ∧
    ((List.range 8).filter (0x03 : Code8).getLsbD).length % 2 = 0 ∧
    resolve .doc42 (syndromeWord 0x03) ≠ none ∧
    ((List.range 8).filter (0x05 : Code8).getLsbD).length % 2 = 0 ∧
    resolve .doc42 (syndromeWord 0x05) = none := by decide

theorem witness_DifferentUnitsCommute :
    (Instr.encode 0xF).unit ≠ (Instr.decode 0x07).unit ∧
    (Instr.syndrome 0x13).unit ≠ (Instr.decode 0x13).unit := by decide

/-- A failing word and, after it, a good one (Program 3). -/
theorem witness_FailureIsNotSticky :
    readDecoder (exec (.decode 0x03) State.reset) = some none ∧
    readDecoder (exec (.decode 0x00) State.reset) = some (some 0x0) := by decide

/-- For each length a string accepted, one too short, one too long, one with another symbol. -/
theorem witness_ParseAcceptsExactlyBinaryStrings :
    parse 4 ['1', '0', '1', '1'] = .ok 0xD ∧ parse 4 ['1', '0', '1'] = .error .invalidInput ∧
    parse 4 ['1', '0', '1', '1', '0'] = .error .invalidInput ∧
    parse 8 (List.replicate 8 '1') = .ok 0xFF ∧
    parse 8 ['0', '1', '1', '0', '0', '1', '1', 'x'] = .error .invalidInput := by decide

theorem witness_HostEncodeStep :
    (waiting [.encode ['0', '1', '0', '1'], .encode []]).pending =
      .encode ['0', '1', '0', '1'] :: [.encode []] ∧
    (['0', '1', '0', '1'].length = 4 ∧ ∀ ch ∈ ['0', '1', '0', '1'], ch = '0' ∨ ch = '1') ∧
    (waiting [.encode []]).pending = .encode [] :: [] ∧ ¬(([] : List Char).length = 4) :=
  ⟨rfl, by simp, rfl, by simp⟩

theorem witness_HostDecodeStep :
    (waiting [.decode (List.replicate 8 '0')]).pending = .decode (List.replicate 8 '0') :: [] ∧
    ((List.replicate 8 '0').length = 8 ∧ ∀ ch ∈ List.replicate 8 '0', ch = '0' ∨ ch = '1') ∧
    readDecoder (exec (.decode 0x00) State.reset) = some (some 0x0) ∧
    readDecoder (exec (.decode 0xD1) State.reset) = some none ∧
    (waiting [.decode (List.replicate 7 '0')]).pending = .decode (List.replicate 7 '0') :: [] ∧
    ¬((List.replicate 7 '0').length = 8) :=
  ⟨rfl, by simp, by decide, by decide, rfl, by simp⟩

/-- For each call a malformed string and a well-formed one. -/
theorem witness_ValidationComesFirst :
    (waiting [.encode ['1', '0', '1']]).pending = .encode ['1', '0', '1'] :: [] ∧
    (waiting [.decode ['1']]).pending = .decode ['1'] :: [] ∧
    ¬(['1', '0', '1'].length = 4) ∧ ¬(['1'].length = 8) ∧
    (waiting [.encode ['1', '0', '1', '1']]).pending = .encode ['1', '0', '1', '1'] :: [] ∧
    (['1', '0', '1', '1'].length = 4 ∧ ∀ ch ∈ ['1', '0', '1', '1'], ch = '0' ∨ ch = '1') ∧
    (waiting [.decode (List.replicate 8 '1')]).pending = .decode (List.replicate 8 '1') :: [] ∧
    ((List.replicate 8 '1').length = 8 ∧ ∀ ch ∈ List.replicate 8 '1', ch = '0' ∨ ch = '1') :=
  ⟨rfl, rfl, by simp, by simp, rfl, by simp, rfl, by simp⟩

theorem witness_HostRoundTrip :
    ['1', '0', '1', '1'].length = 4 ∧ ∀ ch ∈ ['1', '0', '1', '1'], ch = '0' ∨ ch = '1' := by simp

theorem witness_DecodeEncodeAgree :
    decode .hammingEncoder [0x0F, 0xFF] = .ok (.encode 0xF, [0xFF]) := by decide

/-- The last value that fits the 4-bit port and the first that does not. -/
theorem witness_EveryPortValueRuns :
    (waiting [.drive .hammingEncoder 0x0F]).pending = .drive .hammingEncoder 0x0F :: [] ∧
    (0x0F : Byte).toNat < 16 ∧
    (waiting [.drive .hammingEncoder 0x10]).pending = .drive .hammingEncoder 0x10 :: [] ∧
    16 ≤ (0x10 : Byte).toNat ∧
    (waiting [.drive .hammingDecoder 0xFF]).pending = .drive .hammingDecoder 0xFF :: [] := by decide

theorem witness_StepRunsTheDrivenOperation :
    (waiting [.drive .hammingDecoder 0x13]).pending = .drive .hammingDecoder 0x13 :: [] ∧
    decode .hammingDecoder [0x13] = .ok (.decode 0x13, []) := by decide

theorem witness_IdleStepHoldsThePorts : State.reset.pending = [] := by decide

theorem witness_FailureDoesNotStopTheMachine :
    decodeWord .doc42 0x03 = .fail .unrecoverableDoubleError ∧
    (waiting [.drive .hammingDecoder 0x03, .drive .hammingEncoder 0x0F]).pending =
      [.drive .hammingDecoder 0x03, .drive .hammingEncoder ((0xF : Data4).setWidth 8)] := by decide

/-- A state with all three units driven whose ports follow their inputs. -/
def allDriven : State :=
  { State.reset with enc := some ⟨0xD, 0x66⟩, syn := some ⟨0x67, 0x6⟩, dec := some ⟨0x62, 0xE, false⟩ }

theorem allDriven_follows (calls : List HostCall) : (allDriven.setPending calls).PortsFollow where
  enc := by rintro _ ⟨⟩; rfl
  syn := by rintro _ ⟨⟩; rfl
  dec := by rintro _ ⟨⟩; exact ⟨rfl, rfl⟩

theorem witness_StepKeepsPortsFollowing :
    ∃ s t : State, s.PortsFollow ∧ step s = .next t ∧ t ≠ s :=
  ⟨allDriven.setPending [.drive .hammingEncoder 0x0F], _, allDriven_follows _, rfl, by decide⟩

theorem witness_EveryWaitingCallIsPerformed :
    ∃ s : State, s.PortsFollow ∧ s.CallsFit ∧ s.pending.length = 3 :=
  ⟨allDriven.setPending [.drive .hammingDecoder 0xFF, .encode [], .decode (List.replicate 8 '1')],
    allDriven_follows _, by simp [State.CallsFit, HostCall.wf]; decide, rfl⟩

/-- Two states that differ at the decoder only. -/
theorem witness_DecoderCannotInfluenceOthers :
    ∃ s s' : State, s.enc = s'.enc ∧ s.syn = s'.syn ∧ s.pending = s'.pending ∧
      s.lastResult = s'.lastResult ∧ s ≠ s' :=
  ⟨allDriven, (allDriven.setDecoder ⟨0x03, 0x0, true⟩).countDraw, rfl, rfl, rfl, rfl, by decide⟩

end Sys2Proof.Tests.Slice0
end

/-! PROOFS. State family (10_state.md R30, R32): every output port is the function of the input beside
it, at power-up, after each operation and after every step. -/

namespace Sys2Proof.Machine

/-! ### What following says of the decoder's ports -/

theorem DecoderPorts.follows_of_ok (p : DecoderPorts) {v : Data4}
    (h : decodeWord syndromeMap p.codeIn = .ok v) :
    p.follows ↔ p.dblErr = false ∧ p.dataOut = v := by
  simp [DecoderPorts.follows, h]

theorem DecoderPorts.follows_of_fail (p : DecoderPorts) {e : ErrorKind}
    (h : decodeWord syndromeMap p.codeIn = .fail e) : p.follows ↔ p.dblErr = true := by
  simp [DecoderPorts.follows, h]

/-- Following leaves open only `data_out` while `dbl_err = 1` (10_state.md R30). -/
theorem DecoderPorts.follows_agree {p q : DecoderPorts} (hp : p.follows) (hq : q.follows)
    (hin : p.codeIn = q.codeIn) :
    p.dblErr = q.dblErr ∧ (p.dblErr = false → p.dataOut = q.dataOut) := by
  cases h : decodeWord syndromeMap q.codeIn with
  | ok v =>
    obtain ⟨hpe, hpd⟩ := (follows_of_ok p (hin ▸ h)).1 hp
    obtain ⟨hqe, hqd⟩ := (follows_of_ok q h).1 hq
    exact ⟨hpe.trans hqe.symm, fun _ => hpd.trans hqd.symm⟩
  | fail e =>
    have hpe : p.dblErr = true := (follows_of_fail p (hin ▸ h)).1 hp
    have hqe : q.dblErr = true := (follows_of_fail q h).1 hq
    exact ⟨hpe.trans hqe.symm, fun h0 => by simp [hpe] at h0⟩

/-- A decode, whatever its result, leaves on the decoder the word decoded and outputs that follow it. -/
theorem applyDecode_dec (c : Code8) (s : State) :
    ∃ p, (applyDecode c s).dec = some p ∧ p.codeIn = c ∧ p.follows := by
  rcases applyDecode_cases c s with ⟨v, hd, ha⟩ | ⟨hd, ha⟩
  · exact ⟨⟨c, v, false⟩, by simp [ha], rfl,
      (DecoderPorts.follows_of_ok ⟨c, v, false⟩ hd).2 ⟨rfl, rfl⟩⟩
  · exact ⟨⟨c, Config.failData s.draws, true⟩, by simp [ha], rfl,
      (DecoderPorts.follows_of_fail ⟨c, Config.failData s.draws, true⟩ hd).2 rfl⟩

/-! ### Each operation and each host call keeps the ports following -/

theorem State.portsFollow_reset : State.reset.PortsFollow where
  enc := by rintro _ ⟨⟩
  syn := by rintro _ ⟨⟩
  dec := by rintro _ ⟨⟩

section

variable {s : State} (hs : s.PortsFollow)
include hs

theorem State.PortsFollow.setPending (calls : List HostCall) : (s.setPending calls).PortsFollow :=
  ⟨hs.enc, hs.syn, hs.dec⟩

theorem State.PortsFollow.setResult (r : HostResult) : (s.setResult r).PortsFollow :=
  ⟨hs.enc, hs.syn, hs.dec⟩

theorem State.PortsFollow.applyEncode (d : Data4) : (applyEncode d s).PortsFollow where
  enc := by rintro _ ⟨⟩; rfl
  syn := hs.syn
  dec := hs.dec

theorem State.PortsFollow.applySyndrome (c : Code8) : (applySyndrome c s).PortsFollow where
  enc := hs.enc
  syn := by rintro _ ⟨⟩; rfl
  dec := hs.dec

theorem State.PortsFollow.applyDecode (c : Code8) : (applyDecode c s).PortsFollow := by
  obtain ⟨henc, hsyn, -, -⟩ := applyDecode_frame c s
  obtain ⟨p, hdec, -, hp⟩ := applyDecode_dec c s
  refine ⟨henc ▸ hs.enc, hsyn ▸ hs.syn, fun q hq => ?_⟩
  obtain rfl : p = q := Option.some.inj (hdec.symm.trans hq)
  exact hp

theorem State.PortsFollow.exec {i : Instr} {t : State} (h : exec i s = .next t) :
    t.PortsFollow := by
  cases i with
  | encode d => rw [exec_encode] at h; cases h; exact hs.applyEncode d
  | syndrome c => rw [exec_syndrome] at h; cases h; exact hs.applySyndrome c
  | decode c => rw [exec_decode] at h; cases h; exact hs.applyDecode c

theorem State.PortsFollow.callEncode (str : List Char) : (callEncode str s).PortsFollow := by
  rcases callEncode_cases str s with ⟨-, h⟩ | ⟨d, -, h⟩
  · exact h ▸ hs.setResult _
  · exact h ▸ (hs.applyEncode d).setResult _

theorem State.PortsFollow.callDecode (str : List Char) : (callDecode str s).PortsFollow := by
  rcases callDecode_cases str s with ⟨-, h⟩ | ⟨c, -, h⟩
  · exact h ▸ hs.setResult _
  · exact h ▸ (hs.applyDecode c).setResult _

/-- The invariant over everything a step can do: idle, a driven unit, either host call. -/
theorem State.PortsFollow.step {t : State} (h : step s = .next t) : t.PortsFollow := by
  rcases step_cases h with ⟨-, rfl⟩ | ⟨u, w, i, rest, -, -, hx⟩ | ⟨str, rest, -, rfl⟩ |
    ⟨str, rest, -, rfl⟩
  · exact hs
  · exact (hs.setPending rest).exec hx
  · exact (hs.setPending rest).callEncode str
  · exact (hs.setPending rest).callDecode str

end

/-! ### A step with no call waiting -/

theorem fetch_of_pending_nil {s : State} (h : s.pending = []) : fetch s = .idle s := by
  simp [fetch, h]

theorem step_of_pending_nil {s : State} (h : s.pending = []) : step s = .next s := by
  simp only [step, fetch_of_pending_nil h, idle]

/-! ### The obligations -/

/-- Settles O45: the invariant is kept by each thing a step can do. -/
theorem stepKeepsPortsFollowing : Obligations.StepKeepsPortsFollowing :=
  fun _ _ hs h => hs.step h

/-- Settles O27: ENCODE and SYNDROME leave ports written from the operand alone; DECODE leaves, from
each state, ports that follow the same word, and those agree. -/
theorem outputsDependOnInputAlone : Obligations.OutputsDependOnInputAlone := by
  intro i s s'
  cases i with
  | encode d => exact ⟨_, _, exec_encode d s, exec_encode d s', ⟨d, encodeWord d⟩, rfl, rfl, rfl⟩
  | syndrome c =>
    exact ⟨_, _, exec_syndrome c s, exec_syndrome c s', ⟨c, syndromeWord c⟩, rfl, rfl, rfl⟩
  | decode c =>
    obtain ⟨p, hp, hin, hf⟩ := applyDecode_dec c s
    obtain ⟨p', hp', hin', hf'⟩ := applyDecode_dec c s'
    exact ⟨_, _, exec_decode c s, exec_decode c s', p, p', hp, hp', hin, hin',
      DecoderPorts.follows_agree hf hf' (hin.trans hin'.symm)⟩

/-- Settles O40: the fetch finds nothing, so the step idles. -/
theorem idleStepHoldsThePorts : Obligations.IdleStepHoldsThePorts :=
  fun _ => step_of_pending_nil

/-- Settles O42: the power-up state, field by field. -/
theorem resetAppliesNothing : Obligations.ResetAppliesNothing :=
  ⟨rfl, rfl, rfl, rfl, rfl, rfl⟩

/-- Settles O44: no port is applied at power-up, so none can disagree. -/
theorem portsFollowAtReset : Obligations.PortsFollowAtReset :=
  State.portsFollow_reset

end Sys2Proof.Machine

/-! PROOFS. Memory family (20_memory.md R46, R49): the units do not interact. Evaluations of different
units commute, and nothing of the decoder shows elsewhere over any run. -/

namespace Sys2Proof.Machine

/-! ### The state an operation leaves -/

/-- The state after an operation: every operation has one. -/
def applyInstr (i : Instr) (s : State) : State :=
  match i with
  | .encode d => applyEncode d s
  | .syndrome c => applySyndrome c s
  | .decode c => applyDecode c s

theorem exec_eq_next (i : Instr) (s : State) : exec i s = .next (applyInstr i s) := by
  cases i with
  | encode d => exact exec_encode d s
  | syndrome c => exact exec_syndrome c s
  | decode c => exact exec_decode c s

/-! ### Applying a word to one unit and then to another -/

/-- Of the state a decode reads only the count of draws, which no other unit writes. -/
theorem presentResult_setEncoder (c : Code8) (r : Result) (p : EncoderPorts) (s : State) :
    presentResult c r (s.setEncoder p) = (presentResult c r s).setEncoder p := by
  cases r <;> rfl

theorem presentResult_setSyndrome (c : Code8) (r : Result) (p : SyndromePorts) (s : State) :
    presentResult c r (s.setSyndrome p) = (presentResult c r s).setSyndrome p := by
  cases r <;> rfl

theorem applySyndrome_applyEncode (c : Code8) (d : Data4) (s : State) :
    applySyndrome c (applyEncode d s) = applyEncode d (applySyndrome c s) := rfl

theorem applyDecode_applyEncode (c : Code8) (d : Data4) (s : State) :
    applyDecode c (applyEncode d s) = applyEncode d (applyDecode c s) :=
  presentResult_setEncoder c _ _ s

theorem applyDecode_applySyndrome (c c' : Code8) (s : State) :
    applyDecode c (applySyndrome c' s) = applySyndrome c' (applyDecode c s) :=
  presentResult_setSyndrome c _ _ s

/-- Operations of different units commute (20_memory.md R49): one case for each pair of units. -/
theorem applyInstr_comm {i j : Instr} (h : i.unit ≠ j.unit) (s : State) :
    applyInstr j (applyInstr i s) = applyInstr i (applyInstr j s) := by
  cases i with
  | encode d =>
    cases j with
    | encode d' => exact absurd rfl h
    | syndrome c => exact applySyndrome_applyEncode c d s
    | decode c => exact applyDecode_applyEncode c d s
  | syndrome c =>
    cases j with
    | encode d => exact (applySyndrome_applyEncode c d s).symm
    | syndrome c' => exact absurd rfl h
    | decode c' => exact applyDecode_applySyndrome c' c s
  | decode c =>
    cases j with
    | encode d => exact (applyDecode_applyEncode c d s).symm
    | syndrome c' => exact (applyDecode_applySyndrome c c' s).symm
    | decode c' => exact absurd rfl h

/-! ### What a step does, by the oldest waiting call -/

theorem step_of_drive_ok {s : State} {u : UnitName} {w : Byte} {rest : List HostCall} {i : Instr}
    (hp : s.pending = .drive u w :: rest) (hd : decodeDrive u w = .ok i) :
    step s = .next (applyInstr i (s.setPending rest)) := by
  simp [step, fetch, hp, hd, exec_eq_next]

theorem step_of_drive_error {s : State} {u : UnitName} {w : Byte} {rest : List HostCall}
    {e : DecodeError} (hp : s.pending = .drive u w :: rest) (hd : decodeDrive u w = .error e) :
    step s = .refused (.undecodable e) := by
  simp [step, fetch, hp, hd]

theorem step_of_encode {s : State} {str : List Char} {rest : List HostCall}
    (hp : s.pending = .encode str :: rest) :
    step s = .next (callEncode str (s.setPending rest)) := by
  simp [step, fetch, hp]

theorem step_of_decode {s : State} {str : List Char} {rest : List HostCall}
    (hp : s.pending = .decode str :: rest) :
    step s = .next (callDecode str (s.setPending rest)) := by
  simp [step, fetch, hp]

/-! ### A run, by its first step -/

theorem core_run_succ_of_next {s t : State} (h : step s = .next t) (k : Nat) :
    Sys2Proof.core.run (k + 1) s = Sys2Proof.core.run k t := by
  have hs : Sys2Proof.core.step s = .next t := h
  simp only [Host.Core.run, hs]

theorem core_run_succ_of_refused {s : State} {r : Refusal} (h : step s = .refused r) (k : Nat) :
    Sys2Proof.core.run (k + 1) s = .refused r := by
  have hs : Sys2Proof.core.step s = .refused r := h
  simp only [Host.Core.run, hs]

/-! ### States that differ at the decoder only -/

/-- The two states agree on everything but the decoder's ports and the count of draws. -/
structure State.AgreeOffDecoder (s s' : State) : Prop where
  enc : s.enc = s'.enc
  syn : s.syn = s'.syn
  pending : s.pending = s'.pending
  lastResult : s.lastResult = s'.lastResult

/-- Both outcomes are next states that agree off the decoder, or both are the same refusal. -/
inductive OutcomesAgreeOffDecoder :
    Host.Outcome State Fault Refusal → Host.Outcome State Fault Refusal → Prop where
  | next {t t' : State} (h : t.AgreeOffDecoder t') : OutcomesAgreeOffDecoder (.next t) (.next t')
  | refused (r : Refusal) : OutcomesAgreeOffDecoder (.refused r) (.refused r)

section

variable {s s' : State} (h : s.AgreeOffDecoder s')
include h

theorem State.AgreeOffDecoder.setPending (calls : List HostCall) :
    (s.setPending calls).AgreeOffDecoder (s'.setPending calls) :=
  ⟨h.enc, h.syn, rfl, h.lastResult⟩

theorem State.AgreeOffDecoder.setResult (r : HostResult) :
    (s.setResult r).AgreeOffDecoder (s'.setResult r) :=
  ⟨h.enc, h.syn, h.pending, rfl⟩

theorem State.AgreeOffDecoder.applyEncode (d : Data4) :
    (applyEncode d s).AgreeOffDecoder (applyEncode d s') :=
  ⟨rfl, h.syn, h.pending, h.lastResult⟩

theorem State.AgreeOffDecoder.applySyndrome (c : Code8) :
    (applySyndrome c s).AgreeOffDecoder (applySyndrome c s') :=
  ⟨h.enc, rfl, h.pending, h.lastResult⟩

/-- A decode, whatever it draws in either state, writes only where the states may differ. -/
theorem State.AgreeOffDecoder.applyDecode (c : Code8) :
    (applyDecode c s).AgreeOffDecoder (applyDecode c s') := by
  obtain ⟨henc, hsyn, hpending, hlast⟩ := applyDecode_frame c s
  obtain ⟨henc', hsyn', hpending', hlast'⟩ := applyDecode_frame c s'
  exact ⟨by rw [henc, henc', h.enc], by rw [hsyn, hsyn', h.syn],
    by rw [hpending, hpending', h.pending], by rw [hlast, hlast', h.lastResult]⟩

theorem State.AgreeOffDecoder.applyInstr (i : Instr) :
    (applyInstr i s).AgreeOffDecoder (applyInstr i s') := by
  cases i with
  | encode d => exact h.applyEncode d
  | syndrome c => exact h.applySyndrome c
  | decode c => exact h.applyDecode c

theorem State.AgreeOffDecoder.callEncode (str : List Char) :
    (callEncode str s).AgreeOffDecoder (callEncode str s') := by
  unfold Machine.callEncode
  cases parse 4 str with
  | error e => exact h.setResult _
  | ok d => exact (h.applyEncode d).setResult _

/-- The result a host `decode` records is computed from the string, not read from the ports. -/
theorem State.AgreeOffDecoder.callDecode (str : List Char) :
    (callDecode str s).AgreeOffDecoder (callDecode str s') := by
  unfold Machine.callDecode
  cases parse 8 str with
  | error e => exact h.setResult _
  | ok c => exact (h.applyDecode c).setResult _

/-- The relation is kept by everything a step can do, and refusals are the same: the call performed
is the oldest waiting one, on which the states agree. -/
theorem State.AgreeOffDecoder.step : OutcomesAgreeOffDecoder (step s) (step s') := by
  cases hp : s.pending with
  | nil =>
    rw [step_of_pending_nil hp, step_of_pending_nil (h.pending ▸ hp)]
    exact .next h
  | cons call rest =>
    have hp' := h.pending ▸ hp
    have hr := h.setPending rest
    cases call with
    | drive u w =>
      cases hd : decodeDrive u w with
      | ok i =>
        rw [step_of_drive_ok hp hd, step_of_drive_ok hp' hd]
        exact .next (hr.applyInstr i)
      | error e =>
        rw [step_of_drive_error hp hd, step_of_drive_error hp' hd]
        exact .refused _
    | encode str =>
      rw [step_of_encode hp, step_of_encode hp']
      exact .next (hr.callEncode str)
    | decode str =>
      rw [step_of_decode hp, step_of_decode hp']
      exact .next (hr.callDecode str)

end

/-- Two runs from states that agree off the decoder agree off the decoder throughout. -/
theorem State.AgreeOffDecoder.run {s s' : State} (h : s.AgreeOffDecoder s') (k : Nat) :
    OutcomesAgreeOffDecoder (Sys2Proof.core.run k s) (Sys2Proof.core.run k s') := by
  induction k generalizing s s' with
  | zero => exact .next h
  | succ k ih =>
    have hstep := h.step
    generalize ho : Machine.step s = o, ho' : Machine.step s' = o' at hstep
    cases hstep with
    | next ht =>
      rw [core_run_succ_of_next ho, core_run_succ_of_next ho']
      exact ih ht
    | refused r =>
      rw [core_run_succ_of_refused ho, core_run_succ_of_refused ho']
      exact .refused r

/-! ### The obligations -/

/-- Settles O47: agreement off the decoder is kept by every step, so by every run. -/
theorem decoderCannotInfluenceOthers : Obligations.DecoderCannotInfluenceOthers := by
  intro k s s' henc hsyn hpending hlast
  have hrun := State.AgreeOffDecoder.run ⟨henc, hsyn, hpending, hlast⟩ k
  generalize Sys2Proof.core.run k s = o, Sys2Proof.core.run k s' = o' at hrun ⊢
  cases hrun with
  | next ht => exact .inl ⟨_, _, rfl, rfl, ht.enc, ht.syn, ht.pending, ht.lastResult⟩
  | refused r => exact .inr ⟨r, rfl, rfl⟩

/-- Settles O28: both operations complete in every state, and what they leave commutes. -/
theorem differentUnitsCommute : Obligations.DifferentUnitsCommute := by
  intro i j s h
  refine ⟨applyInstr i s, applyInstr j s, applyInstr j (applyInstr i s),
    exec_eq_next i s, exec_eq_next j _, exec_eq_next j s, ?_⟩
  rw [applyInstr_comm h]
  exact exec_eq_next i _

end Sys2Proof.Machine

/-! PROOFS. Encoding family (30_encoding.md R50 to R60): which positions hold which bits, the resolver's
rows, and that decoding a driven byte and encoding an operation undo each other. -/

namespace Sys2Proof

/-! ### When a byte fits its port -/

/-- Only the 4-bit port can be given a byte it does not carry. -/
theorem fitsPort_iff (u : UnitName) (w : Byte) :
    fitsPort u w = true ↔ u ≠ .hammingEncoder ∨ w.toNat < 16 := by
  have hw : w.toNat < 256 := w.isLt
  rw [fitsPort, decide_eq_true_iff]
  cases u with
  | hammingEncoder => simp [UnitName.inWidth]
  | syndromeCalculator => simpa [UnitName.inWidth] using hw
  | hammingDecoder => simpa [UnitName.inWidth] using hw

theorem fitsPort_encodeDrive (i : Instr) : fitsPort i.unit (encodeDrive i) = true := by
  cases i with
  | encode d => exact Laws.PortWidth.encode d
  | syndrome c => exact Laws.PortWidth.syndrome c
  | decode c => exact Laws.PortWidth.decode c

/-! ### One byte: decoding and encoding undo each other -/

theorem decodeDrive_of_wide {u : UnitName} {w : Byte} (h : fitsPort u w = false) :
    decodeDrive u w = .error .widerThanPort := by
  simp [decodeDrive, h]

theorem decodeDrive_encodeDrive (i : Instr) : decodeDrive i.unit (encodeDrive i) = .ok i := by
  unfold decodeDrive
  rw [if_pos (fitsPort_encodeDrive i)]
  cases i with
  | encode d =>
    have hd : (d.setWidth 8).setWidth 4 = d := by simp
    simp only [Instr.unit, encodeDrive, hd]
  | syndrome c => rfl
  | decode c => rfl

/-- Nothing of a byte that fits is lost in decoding it: on the 4-bit port its upper bits are 0. -/
theorem encodeDrive_of_decodeDrive {u : UnitName} {w : Byte} {i : Instr}
    (h : decodeDrive u w = .ok i) : encodeDrive i = w := by
  have hfit : fitsPort u w = true := (decodeDrive_isOk_iff u w).1 ⟨i, h⟩
  unfold decodeDrive at h
  rw [if_pos hfit] at h
  cases u with
  | hammingEncoder =>
    cases h
    have hw : w.toNat < 16 := by simpa using (fitsPort_iff _ w).1 hfit
    apply BitVec.eq_of_toNat_eq
    simp only [encodeDrive, BitVec.toNat_setWidth]
    omega
  | syndromeCalculator => cases h; rfl
  | hammingDecoder => cases h; rfl

theorem decodeDrive_eq_ok_iff {u : UnitName} {w : Byte} {i : Instr} :
    decodeDrive u w = .ok i ↔ i.unit = u ∧ encodeDrive i = w := by
  constructor
  · exact fun h => ⟨decodeDrive_unit h, encodeDrive_of_decodeDrive h⟩
  · rintro ⟨rfl, rfl⟩
    exact decodeDrive_encodeDrive i

/-! ### A list of bytes: the operation is read from the first -/

theorem decode_cons_of_ok {u : UnitName} {w : Byte} {i : Instr} (rest : List Byte)
    (h : decodeDrive u w = .ok i) : decode u (w :: rest) = .ok (i, rest) := by
  simp [decode, h]

theorem decode_cons_of_error {u : UnitName} {w : Byte} {e : DecodeError} (rest : List Byte)
    (h : decodeDrive u w = .error e) : decode u (w :: rest) = .error e := by
  simp [decode, h]

theorem decode_encode (i : Instr) (rest : List Byte) :
    decode i.unit (encode i ++ rest) = .ok (i, rest) :=
  decode_cons_of_ok rest (decodeDrive_encodeDrive i)

/-- The inverse of `decode_cons_of_ok`: a reading needs a first byte, and takes that byte only. -/
theorem decode_eq_ok {u : UnitName} {bytes rest : List Byte} {i : Instr}
    (h : decode u bytes = .ok (i, rest)) : ∃ w, bytes = w :: rest ∧ decodeDrive u w = .ok i := by
  cases bytes with
  | nil => cases h
  | cons w ws =>
    cases hd : decodeDrive u w with
    | error e =>
      rw [decode_cons_of_error ws hd] at h
      cases h
    | ok j =>
      rw [decode_cons_of_ok ws hd] at h
      cases h
      exact ⟨w, rfl, hd⟩

/-- Settles O37: a reading takes one byte, and on one byte decoding and encoding undo each other. -/
theorem decodeEncodeAgree : Obligations.DecodeEncodeAgree := by
  refine ⟨fun i rest => ⟨by cases i <;> rfl, decode_encode i rest⟩, fun u bytes rest i h => ?_⟩
  obtain ⟨w, rfl, hd⟩ := decode_eq_ok h
  obtain ⟨hu, rfl⟩ := decodeDrive_eq_ok_iff.1 hd
  exact ⟨hu, rfl⟩

/-- Settles O36: the three words are the encodings of their operations; the byte with a fifth bit does
not fit the 4-bit port. -/
theorem writtenWordsDecode : Obligations.WrittenWordsDecode :=
  ⟨decode_encode (.encode 0b1101) [], decode_encode (.syndrome 0b01100111) [],
    decode_encode (.decode 0b01100101) [],
    decode_cons_of_error [] (decodeDrive_of_wide (by decide)), fun _ => rfl⟩

end Sys2Proof

namespace Sys2Proof.Machine

/-! ### A step with a driven byte -/

theorem applyInstr_pending (i : Instr) (s : State) : (applyInstr i s).pending = s.pending := by
  cases i with
  | encode d => rfl
  | syndrome c => rfl
  | decode c =>
    obtain ⟨-, -, hpending, -⟩ := applyDecode_frame c s
    exact hpending

/-- Settles O38: a byte that fits decodes and its operation completes; one that does not is refused. -/
theorem everyPortValueRuns : Obligations.EveryPortValueRuns := by
  intro s u w rest hp
  constructor
  · intro hfit
    obtain ⟨i, hd⟩ := (decodeDrive_isOk_iff u w).2 ((fitsPort_iff u w).2 hfit)
    exact ⟨i, applyInstr i (s.setPending rest), decode_cons_of_ok [] hd, step_of_drive_ok hp hd,
      exec_eq_next i _, applyInstr_pending i _⟩
  · rintro ⟨rfl, hwide⟩
    have hfit : fitsPort .hammingEncoder w = false := by
      simp [Bool.eq_false_iff, fitsPort_iff, hwide]
    exact step_of_drive_error hp (decodeDrive_of_wide hfit)

/-- Settles O39: the byte read is the one driven, and every operation completes. -/
theorem stepRunsTheDrivenOperation : Obligations.StepRunsTheDrivenOperation := by
  intro s u w rest i hp h
  obtain ⟨w', hw, hd⟩ := decode_eq_ok h
  cases hw
  exact (step_of_drive_ok hp hd).trans (exec_eq_next i _).symm

/-! ### Codeword positions and the resolver's rows -/

theorem getLsbD_receivedData_dpos (c : Code8) (k : Fin 4) :
    (receivedData c).getLsbD k = c.getLsbD (dpos k) := by
  rw [getLsbD_receivedData]
  fin_cases k <;> rfl

/-- Assembly writes back what extraction read (30_encoding.md R53, R55). -/
theorem assemble_received (c : Code8) :
    assemble (receivedParity c) (receivedData c) (receivedOverall c) = c := by
  apply BitVec.eq_of_getLsbD_eq
  intro i hi
  simp only [getLsbD_assemble, getLsbD_receivedData, receivedParity, receivedOverall, bit_eq]
  obtain rfl | rfl | rfl | rfl | rfl | rfl | rfl | rfl :
    i = 0 ∨ i = 1 ∨ i = 2 ∨ i = 3 ∨ i = 4 ∨ i = 5 ∨ i = 6 ∨ i = 7 := by omega
  all_goals rfl

/-- Settles O4: each position is read off the bit lists of extraction and assembly. -/
theorem extractionAndAssemblyPositions : Obligations.ExtractionAndAssemblyPositions := by
  refine ⟨fun c => ?_, ⟨rfl, rfl, rfl, rfl⟩, fun p d op => ?_⟩
  · have hdata := getLsbD_receivedData_dpos c
    exact ⟨rfl, rfl, hdata 0, hdata 1, hdata 2, hdata 3, hdata, assemble_received c⟩
  · have hpos := getLsbD_assemble p d op
    exact ⟨hpos 0, hpos 1, hpos 2, hpos 3, hpos 4, hpos 5, hpos 6, hpos 7⟩

/-- Settles O5: the six rows on which the tables agree, under each table, then the two on which they
differ. -/
theorem resolverTableRows : Obligations.ResolverTableRows := by
  refine ⟨rfl, fun m => ?_, rfl, rfl, rfl, rfl⟩
  cases m with
  | doc42 => exact ⟨rfl, rfl, rfl, rfl, rfl, rfl⟩
  | coverageConsistent => exact ⟨rfl, rfl, rfl, rfl, rfl, rfl⟩

end Sys2Proof.Machine

/-! PROOFS. Parity family (40_parity.md R70 to R74): a mod-2 sum is a count of ones modulo 2, and
PARITY is the mod-2 sums of the covered bits, which are linear in the word. -/

namespace Sys2Proof.Machine

/-! ### A mod-2 sum counts ones -/

/-- By induction: a bit at the front changes both sides exactly when it is 1. -/
theorem mod2Sum_eq_decide_odd (bits : List Bit) :
    mod2Sum bits = decide ((bits.filter (· = true)).length % 2 = 1) := by
  induction bits with
  | nil => rfl
  | cons b bits ih =>
    rw [mod2Sum_cons, ih]
    cases b with
    | false => simp
    | true =>
      rw [List.filter_cons_of_pos rfl, List.length_cons, Bool.true_xor, ← decide_not,
        decide_eq_decide]
      omega

/-- Settles O2: the sum decides whether the count is odd, and a count that is not odd is even. -/
theorem mod2SumIsOddCount : Obligations.Mod2SumIsOddCount := by
  intro bits
  rw [mod2Sum_eq_decide_odd, decide_eq_true_iff, decide_eq_false_iff_not]
  exact ⟨Iff.rfl, Nat.mod_two_ne_one⟩

/-! ### PARITY sums the covered bits -/

/-- Settles O1: the sums are those of `parity_eq`; the rest reads the constant table. -/
theorem paritySumsTheCoveredBits : Obligations.ParitySumsTheCoveredBits := by
  refine ⟨rfl, rfl, rfl, fun d => ?_, rfl, rfl, rfl, by decide, rfl, rfl, rfl⟩
  simp only [parity_eq, Bool.xor_assoc, and_self]

/-! ### PARITY is linear -/

/-- A row's sum, one covered index at a time. -/
theorem parityBit_cons (k : Fin 4) (row : List (Fin 4)) (d : Data4) :
    parityBit (k :: row) d = (d.getLsbD k ^^ parityBit row d) := rfl

/-- The sum over any row of covered indices is linear, whatever the row. -/
theorem parityBit_xor (row : List (Fin 4)) (a b : Data4) :
    parityBit row (a ^^^ b) = (parityBit row a ^^ parityBit row b) := by
  induction row with
  | nil => rfl
  | cons k row ih =>
    simp only [parityBit_cons, BitVec.getLsbD_xor, ih, Bool.xor_assoc, Bool.xor_left_comm]

/-- Settles O3: each parity bit is the sum over one row. -/
theorem parityIsLinear : Obligations.ParityIsLinear := fun a b =>
  ⟨parityBit_xor coverage.p1 a b, parityBit_xor coverage.p2 a b, parityBit_xor coverage.p3 a b⟩

end Sys2Proof.Machine

/-! PROOFS. Encoder family (41_encoder.md R80 to R85): the bits of an ENCODE output, its overall
parity, the distance between two outputs, and the frame of the three operations. -/

namespace Sys2Proof.Machine

/-! ### The bits of an ENCODE output -/

/-- ENCODE on the machine, as the statements write the state it leaves. -/
theorem exec_encode_eq_with (d : Data4) (s : State) :
    exec (.encode d) s = .next { s with enc := some ⟨d, encodeWord d⟩ } := rfl

theorem getLsbD_encodeWord (d : Data4) (i : Nat) :
    (encodeWord d).getLsbD i =
      [(parity d).p1, (parity d).p2, d.getLsbD 0, (parity d).p3, d.getLsbD 1, d.getLsbD 2,
        d.getLsbD 3, overallParity (parity d) d].getD i false :=
  getLsbD_assemble _ _ _ i

theorem receivedData_encodeWord (d : Data4) : receivedData (encodeWord d) = d :=
  receivedData_assemble _ _ _

/-- Position 7 is the mod-2 sum of the seven positions before it (R80). -/
theorem getLsbD_encodeWord_seven (d : Data4) :
    (encodeWord d).getLsbD 7 =
      ((encodeWord d).getLsbD 0 ^^ (encodeWord d).getLsbD 1 ^^ (encodeWord d).getLsbD 2 ^^
        (encodeWord d).getLsbD 3 ^^ (encodeWord d).getLsbD 4 ^^ (encodeWord d).getLsbD 5 ^^
        (encodeWord d).getLsbD 6) := by
  simp only [getLsbD_encodeWord, List.getD_cons_zero, List.getD_cons_succ, overallParity, bit_eq,
    mod2Sum_cons, mod2Sum_nil, Bool.xor_false, Bool.xor_assoc]

/-- Settles O6: the parity bits are PARITY's sums of the covered bits, the data bits stand where
assembly puts them, and position 7 sums the rest. -/
theorem encodeGivesTheCodeword : Obligations.EncodeGivesTheCodeword := by
  intro s d
  have hbit := getLsbD_encodeWord d
  obtain ⟨-, -, -, hsums, -⟩ := paritySumsTheCoveredBits
  obtain ⟨hp1, hp2, hp3⟩ := hsums d
  refine ⟨encodeWord d, exec_encode_eq_with d s, (hbit 0).trans hp1, (hbit 1).trans hp2, hbit 2,
    (hbit 3).trans hp3, hbit 4, hbit 5, hbit 6, getLsbD_encodeWord_seven d, ?_, ?_, ?_⟩
  all_goals (rintro rfl; rfl)

/-! ### The overall parity -/

/-- Each of `D[0]`, `D[1]`, `D[2]` is covered twice and `D[3]` three times (R82). -/
theorem parity_bits_xor (d : Data4) :
    ((parity d).p1 ^^ (parity d).p2 ^^ (parity d).p3) = d.getLsbD 3 := by
  rw [parity_eq]
  simp [Bool.xor_left_comm, Bool.xor_comm]

/-- The parity bits sum to `D[3]`, which cancels the `D[3]` among the data bits (R82). -/
theorem overallParity_parity (d : Data4) :
    overallParity (parity d) d = (d.getLsbD 0 ^^ d.getLsbD 1 ^^ d.getLsbD 2) := by
  calc overallParity (parity d) d
      = (((parity d).p1 ^^ (parity d).p2 ^^ (parity d).p3) ^^
          (d.getLsbD 0 ^^ d.getLsbD 1 ^^ d.getLsbD 2) ^^ d.getLsbD 3) := by
        simp only [overallParity, bit_eq, mod2Sum_cons, mod2Sum_nil, Bool.xor_false,
          Bool.xor_assoc, Bool.xor_left_comm]
    _ = (d.getLsbD 3 ^^ (d.getLsbD 0 ^^ d.getLsbD 1 ^^ d.getLsbD 2) ^^ d.getLsbD 3) := by
        rw [parity_bits_xor]
    _ = (d.getLsbD 0 ^^ d.getLsbD 1 ^^ d.getLsbD 2) := by
        rw [Bool.xor_right_comm, Bool.xor_self, Bool.false_xor]

/-- Settles O7: positions 0, 1 and 3 are the parity bits, position 7 the overall parity. -/
theorem encodeOverallParitySimplifies : Obligations.EncodeOverallParitySimplifies := by
  intro s d
  refine ⟨encodeWord d, exec_encode_eq_with d s, ?_,
    (getLsbD_encodeWord d 7).trans (overallParity_parity d)⟩
  simpa only [getLsbD_encodeWord, List.getD_cons_zero, List.getD_cons_succ] using parity_bits_xor d

/-- Settles O8: the sum of the first seven bits meets itself at position 7. -/
theorem encodeOutputHasEvenParity : Obligations.EncodeOutputHasEvenParity := by
  intro s d
  refine ⟨encodeWord d, exec_encode_eq_with d s, ?_⟩
  rw [getLsbD_encodeWord_seven, Bool.xor_self]

/-! ### The distance between two ENCODE outputs -/

/-- ENCODE is linear, because PARITY and the overall parity are. -/
theorem encodeWord_xor (a b : Data4) : encodeWord (a ^^^ b) = encodeWord a ^^^ encodeWord b := by
  obtain ⟨hp1, hp2, hp3⟩ := parityIsLinear a b
  have hop : overallParity (parity (a ^^^ b)) (a ^^^ b) =
      (overallParity (parity a) a ^^ overallParity (parity b) b) := by
    simp only [overallParity_parity, BitVec.getLsbD_xor, Bool.xor_assoc, Bool.xor_left_comm]
  apply BitVec.eq_of_getLsbD_eq
  intro i hi
  simp only [BitVec.getLsbD_xor, getLsbD_encodeWord, hp1, hp2, hp3, hop]
  obtain rfl | rfl | rfl | rfl | rfl | rfl | rfl | rfl :
    i = 0 ∨ i = 1 ∨ i = 2 ∨ i = 3 ∨ i = 4 ∨ i = 5 ∨ i = 6 ∨ i = 7 := by omega
  all_goals rfl

theorem encodeWord_injective : Function.Injective encodeWord :=
  Function.LeftInverse.injective receivedData_encodeWord

/-- The positions at which two words differ are the ones of their mod-2 sum. -/
theorem filter_getLsbD_bne {n : Nat} (v w : BitVec n) (ps : List Nat) :
    ps.filter (fun p => v.getLsbD p != w.getLsbD p) = ps.filter (v ^^^ w).getLsbD :=
  List.filter_congr fun p _ => by rw [BitVec.getLsbD_xor, Bool.bne_eq_xor]

/-- The least weight of a linear code is its least distance (R84): 15 words to look at. -/
theorem four_le_weight_encodeWord :
    ∀ d : Data4, d ≠ 0 → 4 ≤ ((List.range 8).filter (encodeWord d).getLsbD).length := by
  decide

theorem four_le_distance_encodeWord {d d' : Data4} (h : d ≠ d') :
    4 ≤ ((List.range 8).filter fun p =>
      (encodeWord d).getLsbD p != (encodeWord d').getLsbD p).length := by
  rw [filter_getLsbD_bne, ← encodeWord_xor]
  exact four_le_weight_encodeWord _ (mt BitVec.xor_eq_zero_iff.1 h)

/-- Settles O9: the data positions make ENCODE injective, linearity reduces distance to weight, and
`ENCODE(0x0)` and `ENCODE(0x1)` are at distance 4. -/
theorem encodeMinimumDistanceFour : Obligations.EncodeMinimumDistanceFour := by
  refine ⟨fun s s' d d' h => ?_, 0x0, 0x1, fun s => ?_⟩
  · refine ⟨encodeWord d, encodeWord d', exec_encode_eq_with d s, exec_encode_eq_with d' s',
      encodeWord_injective.ne h, fun k => ?_, four_le_distance_encodeWord h⟩
    rw [← getLsbD_receivedData_dpos, receivedData_encodeWord]
  · exact ⟨_, _, exec_encode_eq_with _ s, exec_encode_eq_with _ s, by decide⟩

/-! ### The frame of the three operations -/

/-- A decode takes a draw exactly when the ports it leaves show a failure (R106). -/
theorem applyDecode_draws (c : Code8) (s : State) :
    ∃ p, (applyDecode c s).dec = some p ∧
      (applyDecode c s).draws = s.draws + (if p.dblErr then 1 else 0) := by
  rcases applyDecode_cases c s with ⟨v, -, h⟩ | ⟨-, h⟩
  · exact ⟨⟨c, v, false⟩, by simp [h], by simp [h]⟩
  · exact ⟨⟨c, Config.failData s.draws, true⟩, by simp [h], by simp [h]⟩

/-- Settles O26: ENCODE and SYNDROME write their own unit's ports; DECODE has the frame of
`applyDecode_frame` and counts its draws. -/
theorem operationsChangeOwnPortsOnly : Obligations.OperationsChangeOwnPortsOnly := by
  refine ⟨fun s d => ?_, fun s c => ?_, fun s c => ?_⟩
  · exact ⟨_, exec_encode d s, rfl, rfl, rfl, rfl, rfl⟩
  · exact ⟨_, exec_syndrome c s, rfl, rfl, rfl, rfl, rfl⟩
  · obtain ⟨henc, hsyn, hpending, hlast⟩ := applyDecode_frame c s
    obtain ⟨p, hdec, hdraws⟩ := applyDecode_draws c s
    exact ⟨_, p, exec_decode c s, hdec, henc, hsyn, hpending, hlast, hdraws⟩

end Sys2Proof.Machine

/-! PROOFS. Syndrome family (42_syndrome_calculator.md R90 to R94): the bits of the match vector, its
linearity, what it is on an ENCODE output, and its value as a sum of error positions. -/

namespace Sys2Proof.Machine

/-! ### The bits of the match vector -/

/-- SYNDROME on the machine, as the statements write the state it leaves. -/
theorem exec_syndrome_eq_with (c : Code8) (s : State) :
    exec (.syndrome c) s = .next { s with syn := some ⟨c, syndromeWord c⟩ } := rfl

theorem getLsbD_syndromeWord (c : Code8) (i : Nat) :
    (syndromeWord c).getLsbD i =
      [c.getLsbD 0 == (parity (receivedData c)).p1, c.getLsbD 1 == (parity (receivedData c)).p2,
        c.getLsbD 3 == (parity (receivedData c)).p3].getD i false :=
  getLsbD_matchVector _ _ i

/-- Two match vectors are equal when the three checks agree. -/
theorem match3_ext {v w : Match3} (h0 : v.getLsbD 0 = w.getLsbD 0)
    (h1 : v.getLsbD 1 = w.getLsbD 1) (h2 : v.getLsbD 2 = w.getLsbD 2) : v = w := by
  apply BitVec.eq_of_getLsbD_eq
  intro i hi
  obtain rfl | rfl | rfl : i = 0 ∨ i = 1 ∨ i = 2 := by omega
  · exact h0
  · exact h1
  · exact h2

/-- PARITY of the received data, as sums over codeword positions (R90, 40_parity.md R71). -/
theorem parity_receivedData (c : Code8) :
    parity (receivedData c) = ⟨c.getLsbD 2 ^^ c.getLsbD 4 ^^ c.getLsbD 6,
      c.getLsbD 2 ^^ c.getLsbD 5 ^^ c.getLsbD 6, c.getLsbD 4 ^^ c.getLsbD 5 ^^ c.getLsbD 6⟩ := by
  simp only [parity_eq, getLsbD_receivedData, List.getD_cons_zero, List.getD_cons_succ,
    Bool.xor_assoc]

/-- Settles O10: each bit compares a received parity bit with the sum of the positions it covers. -/
theorem syndromeGivesTheMatchVector : Obligations.SyndromeGivesTheMatchVector := by
  intro s c
  have hbit := getLsbD_syndromeWord c
  rw [parity_receivedData] at hbit
  refine ⟨syndromeWord c, exec_syndrome_eq_with c s, hbit 0, hbit 1, hbit 2, ?_, ?_, ?_⟩
  all_goals (rintro rfl; rfl)

/-! ### SYNDROME is linear up to its polarity -/

theorem receivedData_xor (a b : Code8) :
    receivedData (a ^^^ b) = receivedData a ^^^ receivedData b := by
  apply BitVec.eq_of_getLsbD_eq
  intro i hi
  simp only [BitVec.getLsbD_xor, getLsbD_receivedData]
  obtain rfl | rfl | rfl | rfl : i = 0 ∨ i = 1 ∨ i = 2 ∨ i = 3 := by omega
  all_goals rfl

/-- A check matches when its two bits do not sum to 1 (R90's `~(rpj ^ epj)`). -/
theorem beq_eq_true_xor (r e : Bit) : (r == e) = (true ^^ (r ^^ e)) := by
  revert r e
  decide

/-- A check of two sums matches when both checks match or neither does. -/
theorem xor_beq_xor (r r' e e' : Bit) :
    ((r ^^ r') == (e ^^ e')) = (true ^^ ((r == e) ^^ (r' == e'))) := by
  revert r r' e e'
  decide

/-- Mismatches add up (R92), because PARITY is linear. -/
theorem syndromeWord_xor (a b : Code8) :
    syndromeWord (a ^^^ b) = 0x7 ^^^ (syndromeWord a ^^^ syndromeWord b) := by
  obtain ⟨hp1, hp2, hp3⟩ := parityIsLinear (receivedData a) (receivedData b)
  apply match3_ext
  all_goals
    simp only [BitVec.getLsbD_xor, getLsbD_syndromeWord, receivedData_xor, hp1, hp2, hp3]
    exact xor_beq_xor _ _ _ _

/-- A word whose checks all match may be added without changing the syndrome. -/
theorem syndromeWord_xor_of_match {c : Code8} (h : syndromeWord c = 0x7) (e : Code8) :
    syndromeWord (c ^^^ e) = syndromeWord e := by
  rw [syndromeWord_xor, h, ← BitVec.xor_assoc, BitVec.xor_self, BitVec.zero_xor]

/-- Settles O11: position 7 alone set is a word whose checks all match. -/
theorem syndromeIgnoresOverallBit : Obligations.SyndromeIgnoresOverallBit := by
  intro s c
  have hflip : syndromeWord (c ^^^ 0x80) = syndromeWord c := by
    rw [BitVec.xor_comm]
    exact syndromeWord_xor_of_match rfl c
  refine ⟨syndromeWord c, exec_syndrome_eq_with c s, ?_⟩
  rw [exec_syndrome_eq_with, hflip]

/-! ### On an ENCODE output all checks match -/

theorem matchVector_self (p : Parity) : matchVector p p = 0x7 := by
  apply match3_ext
  all_goals
    simp only [getLsbD_matchVector, beq_self_eq_true]
    rfl

/-- The calculator recomputes each check from the data and the table the encoder used (R93). -/
theorem syndromeWord_encodeWord (d : Data4) : syndromeWord (encodeWord d) = 0x7 := by
  rw [syndromeWord, receivedData_encodeWord, encodeWord, receivedParity_assemble, matchVector_self]

/-- Settles O13: the checks of an ENCODE output match, whatever the state ENCODE leaves. -/
theorem syndromeOfEncodeOutputMatches : Obligations.SyndromeOfEncodeOutputMatches := by
  intro s d
  refine ⟨encodeWord d, applyEncode d s, exec_encode d s, rfl, ?_⟩
  rw [exec_syndrome_eq_with, syndromeWord_encodeWord]

/-! ### The syndrome as a sum of error positions -/

/-- `acc` with `p + 1` added mod 2, for each position `p` of `ps` that holds a 1 in `c` (R92). -/
def addPositions (c : Code8) (ps : List Nat) (acc : Match3) : Match3 :=
  ps.foldl (fun acc p => if c.getLsbD p then acc ^^^ BitVec.ofNat 3 (p + 1) else acc) acc

theorem addPositions_cons (c : Code8) (p : Nat) (ps : List Nat) (acc : Match3) :
    addPositions c (p :: ps) acc =
      addPositions c ps (if c.getLsbD p then acc ^^^ BitVec.ofNat 3 (p + 1) else acc) := rfl

/-- Bit `j` sums the positions `p` of `ps` for which bit `j` of `p + 1` is 1. -/
theorem getLsbD_addPositions (c : Code8) (ps : List Nat) (acc : Match3) (j : Nat) :
    (addPositions c ps acc).getLsbD j = (acc.getLsbD j ^^
      mod2Sum (ps.map fun p => c.getLsbD p && (BitVec.ofNat 3 (p + 1)).getLsbD j)) := by
  induction ps generalizing acc with
  | nil => simp [addPositions]
  | cons p ps ih =>
    rw [addPositions_cons, ih, List.map_cons, mod2Sum_cons]
    cases c.getLsbD p with
    | false => simp
    | true => simp

/-- The rows of the coverage table are the binary digits of `p + 1` (R92): check `pj` covers position
`p` exactly when bit `j - 1` of `p + 1` is 1. -/
theorem syndromeWord_eq_addPositions (c : Code8) :
    syndromeWord c = 0x7 ^^^ addPositions c (List.range 7) 0 := by
  apply match3_ext
  all_goals
    rw [BitVec.getLsbD_xor, getLsbD_addPositions, getLsbD_syndromeWord, parity_receivedData]
    refine (beq_eq_true_xor _ _).trans ?_
    simp [List.range_succ]

/-- Settles O12: the formula is the sum of positions; the checks of a codeword match, so only the error
pattern counts; the rows are its syndromes. -/
theorem syndromeDependsOnErrorPatternOnly : Obligations.SyndromeDependsOnErrorPatternOnly := by
  have herror (d : Data4) (e : Code8) : syndromeWord (encodeWord d ^^^ e) = syndromeWord e :=
    syndromeWord_xor_of_match (syndromeWord_encodeWord d) e
  refine ⟨fun s c => ?_, fun s d e => ?_, fun s d row hrow => ?_⟩
  · exact ⟨syndromeWord c, exec_syndrome_eq_with c s, syndromeWord_eq_addPositions c⟩
  · refine ⟨encodeWord d, syndromeWord e, exec_encode_eq_with d s, ?_, exec_syndrome_eq_with e s⟩
    rw [exec_syndrome_eq_with, herror]
  · have hsyn : syndromeWord row.1 = row.2 := by
      fin_cases hrow
      all_goals rfl
    refine ⟨encodeWord d, exec_encode_eq_with d s, ?_⟩
    rw [exec_syndrome_eq_with, herror, hsyn]

end Sys2Proof.Machine

/-! PROOFS. Decoder family (43_decoder.md R100 to R113): what DECODE answers, by candidate and total
parity; that on an ENCODE output with errors it adds what it answers on the errors alone to the data;
the host's round trip. -/

namespace Sys2Proof.Machine

/-! ### The total parity of a word -/

/-- The total as the statements write it. -/
theorem totalParity_eq_xor (c : Code8) :
    totalParity c = (c.getLsbD 0 ^^ c.getLsbD 1 ^^ c.getLsbD 2 ^^ c.getLsbD 3 ^^ c.getLsbD 4 ^^
      c.getLsbD 5 ^^ c.getLsbD 6 ^^ c.getLsbD 7) := by
  simp only [totalParity, bit_eq, mod2Sum_cons, mod2Sum_nil, Bool.xor_false, Bool.xor_assoc]

theorem totalParity_eq_mod2Sum_map (c : Code8) :
    totalParity c = mod2Sum ((List.range 8).map c.getLsbD) := rfl

/-- The sum of any positions of a word is linear in the word. -/
theorem mod2Sum_map_getLsbD_xor {n : Nat} (a b : BitVec n) (ps : List Nat) :
    mod2Sum (ps.map (a ^^^ b).getLsbD) =
      (mod2Sum (ps.map a.getLsbD) ^^ mod2Sum (ps.map b.getLsbD)) := by
  induction ps with
  | nil => rfl
  | cons p ps ih =>
    simp only [List.map_cons, mod2Sum_cons, ih, BitVec.getLsbD_xor, Bool.xor_assoc,
      Bool.xor_left_comm]

theorem totalParity_xor (a b : Code8) :
    totalParity (a ^^^ b) = (totalParity a ^^ totalParity b) :=
  mod2Sum_map_getLsbD_xor a b (List.range 8)

theorem totalParity_eq_decide_odd (c : Code8) :
    totalParity c = decide (((List.range 8).filter c.getLsbD).length % 2 = 1) := by
  have hp : ((fun b => decide (b = true)) ∘ c.getLsbD) = c.getLsbD := by
    funext i
    simp
  rw [totalParity_eq_mod2Sum_map, mod2Sum_eq_decide_odd, List.filter_map, List.length_map, hp]

theorem totalParity_eq_true_iff (c : Code8) :
    totalParity c = true ↔ ((List.range 8).filter c.getLsbD).length % 2 = 1 := by
  rw [totalParity_eq_decide_odd, decide_eq_true_iff]

theorem totalParity_eq_false_iff (c : Code8) :
    totalParity c = false ↔ ((List.range 8).filter c.getLsbD).length % 2 = 0 := by
  rw [totalParity_eq_decide_odd, decide_eq_false_iff_not]
  exact Nat.mod_two_ne_one

/-! ### Flipping the position of a data bit -/

/-- The positions of the data bits hold no parity bit, and each its own data bit (R54). -/
theorem received_twoPow_dpos (k : Fin 4) :
    receivedParity (BitVec.twoPow 8 (dpos k)) = ⟨false, false, false⟩ ∧
    receivedData (BitVec.twoPow 8 (dpos k)) = BitVec.twoPow 4 k ∧
    receivedOverall (BitVec.twoPow 8 (dpos k)) = false ∧
    totalParity (BitVec.twoPow 8 (dpos k)) = true := by
  revert k
  decide

theorem receivedParity_xor (a b : Code8) :
    receivedParity (a ^^^ b) =
      ⟨(receivedParity a).p1 ^^ (receivedParity b).p1,
        (receivedParity a).p2 ^^ (receivedParity b).p2,
        (receivedParity a).p3 ^^ (receivedParity b).p3⟩ := by
  simp only [receivedParity, bit_eq, BitVec.getLsbD_xor]

theorem receivedOverall_xor (a b : Code8) :
    receivedOverall (a ^^^ b) = (receivedOverall a ^^ receivedOverall b) :=
  BitVec.getLsbD_xor

/-- Reassembling with data bit `k` flipped is flipping the position that holds it (R104). -/
theorem correct_c2 (m : SyndromeMap) (c : Code8) (k : Fin 4) :
    (correct (decodeTrace m c) k).c2 = c ^^^ BitVec.twoPow 8 (dpos k) := by
  obtain ⟨hp, hd, hop, -⟩ := received_twoPow_dpos k
  have h := assemble_received (c ^^^ BitVec.twoPow 8 (dpos k))
  simp only [receivedParity_xor, receivedData_xor, receivedOverall_xor, hp, hd, hop,
    Bool.xor_false] at h
  exact h

/-- One flipped bit changes the total, whichever it is (R107). -/
theorem correct_t (m : SyndromeMap) (c : Code8) (k : Fin 4) :
    (correct (decodeTrace m c) k).t = !totalParity c := by
  obtain ⟨-, -, -, ht⟩ := received_twoPow_dpos k
  calc (correct (decodeTrace m c) k).t
      = totalParity (c ^^^ BitVec.twoPow 8 (dpos k)) := congrArg totalParity (correct_c2 m c k)
    _ = !totalParity c := by rw [totalParity_xor, ht, Bool.xor_true]

/-! ### What DECODE answers, by candidate and total parity -/

section

variable {m : SyndromeMap} {c : Code8}

theorem decodeWord_of_none (h : resolve m (syndromeWord c) = none) :
    decodeWord m c = .ok (receivedData c) := by
  rcases decodeWord_cases m c with ⟨-, hd⟩ | ⟨k, hk, -⟩ | ⟨k, hk, -⟩
  · exact hd
  · cases h.symm.trans hk
  · cases h.symm.trans hk

theorem decodeWord_of_some {k : Fin 4} (h : resolve m (syndromeWord c) = some k) :
    decodeWord m c = postCheck (correct (decodeTrace m c) k) := by
  have hcand : (decodeTrace m c).cand = some k := h
  simp only [decodeWord, hcand]

theorem decodeWord_of_some_of_odd {k : Fin 4} (h : resolve m (syndromeWord c) = some k)
    (hodd : totalParity c = true) : decodeWord m c = .ok (flip (receivedData c) k) := by
  rw [decodeWord_of_some h, postCheck_even (by rw [correct_t, hodd, Bool.not_true])]
  rfl

theorem decodeWord_of_some_of_even {k : Fin 4} (h : resolve m (syndromeWord c) = some k)
    (heven : totalParity c = false) : decodeWord m c = .fail .unrecoverableDoubleError := by
  rw [decodeWord_of_some h, postCheck_odd (by rw [correct_t, heven, Bool.not_false])]

end

/-- A candidate and an even total are what a failure takes (R107). -/
theorem decodeWord_eq_fail_iff (m : SyndromeMap) (c : Code8) :
    decodeWord m c = .fail .unrecoverableDoubleError ↔
      resolve m (syndromeWord c) ≠ none ∧ totalParity c = false := by
  cases hr : resolve m (syndromeWord c) with
  | none => simp [decodeWord_of_none hr]
  | some k =>
    cases ht : totalParity c with
    | false => simp [decodeWord_of_some_of_even hr ht]
    | true => simp [decodeWord_of_some_of_odd hr ht]

/-! ### What DECODE leaves on the machine -/

section

variable {c : Code8}

theorem exec_decode_of_ok {v : Data4} (h : decodeWord .doc42 c = .ok v) (s : State) :
    exec (.decode c) s = .next { s with dec := some ⟨c, v, false⟩ } := by
  have ha : applyDecode c s = s.setDecoder ⟨c, v, false⟩ :=
    (congrArg (presentResult c · s) h).trans (presentResult_ok c v s)
  rw [exec_decode, ha]
  rfl

theorem exec_decode_of_fail (h : decodeWord .doc42 c = .fail .unrecoverableDoubleError)
    (s : State) :
    exec (.decode c) s = .next { s with
      dec := some ⟨c, Config.failData s.draws, true⟩, draws := s.draws + 1 } := by
  have ha : applyDecode c s = (s.setDecoder ⟨c, Config.failData s.draws, true⟩).countDraw :=
    (congrArg (presentResult c · s) h).trans (presentResult_fail c s)
  rw [exec_decode, ha]
  rfl

end

/-- The error line of ports that follow their word, in terms of the word. -/
theorem DecoderPorts.follows.dblErr_iff {p : DecoderPorts} (h : p.follows) :
    p.dblErr = true ↔
      resolve .doc42 (syndromeWord p.codeIn) ≠ none ∧ totalParity p.codeIn = false := by
  rw [← decodeWord_eq_fail_iff]
  rcases decodeWord_cases .doc42 p.codeIn with ⟨-, hd⟩ | ⟨k, -, -, hd⟩ | ⟨k, -, -, hd⟩
  · simp [((follows_of_ok p hd).1 h).1, hd]
  · simp [((follows_of_ok p hd).1 h).1, hd]
  · simp [(follows_of_fail p hd).1 h, hd]

/-! ### The obligations on one received word -/

/-- Settles O15: steps 1 to 3 of the trace are written with the calculator's own functions. -/
theorem decoderUsesTheSyndromeCalculator : Obligations.DecoderUsesTheSyndromeCalculator :=
  fun s c _ => ⟨exec_syndrome_eq_with c s, rfl, rfl, getLsbD_receivedData_dpos c, rfl, rfl⟩

/-- Settles O18: each result is shown as `presentResult` says, and a failure is the double error. -/
theorem decodePortMapping : Obligations.DecodePortMapping := by
  refine fun s c => ⟨fun v h => exec_decode_of_ok h s, fun h => exec_decode_of_fail h s, ?_⟩
  rcases decodeWord_cases .doc42 c with ⟨-, hd⟩ | ⟨k, -, -, hd⟩ | ⟨k, -, -, hd⟩
  all_goals simp [hd]

/-- Settles O16: position 7 enters neither the syndrome nor the data. -/
theorem noCandidateReturnsReceivedData : Obligations.NoCandidateReturnsReceivedData := by
  intro s c h
  have hsyn : syndromeWord (c ^^^ 0x80) = syndromeWord c := by
    rw [BitVec.xor_comm]
    exact syndromeWord_xor_of_match rfl c
  have hdata : receivedData (c ^^^ 0x80) = receivedData c := by
    rw [receivedData_xor, show receivedData 0x80 = 0#4 from rfl, BitVec.xor_zero]
  have hflip : decodeWord .doc42 (c ^^^ 0x80) = .ok (receivedData c) :=
    hdata ▸ decodeWord_of_none (hsyn ▸ h)
  exact ⟨receivedData c, getLsbD_receivedData_dpos c, exec_decode_of_ok (decodeWord_of_none h) s,
    exec_decode_of_ok hflip s⟩

/-- Settles O17: the post-check's two outcomes, on the word `correct_c2` names. -/
theorem postCheckDecidesTheCorrection : Obligations.PostCheckDecidesTheCorrection := by
  intro s c k h tr x
  have hdec : decodeWord .doc42 c = postCheck x := decodeWord_of_some h
  refine ⟨rfl, rfl, correct_c2 .doc42 c k, totalParity_eq_true_iff x.c2, fun ht => ?_, fun ht => ?_⟩
  · have hok := hdec.trans (postCheck_even ht)
    exact ⟨hok, exec_decode_of_ok hok s⟩
  · have hfail := hdec.trans (postCheck_odd ht)
    exact ⟨hfail, _, exec_decode_of_fail hfail s⟩

/-- The candidate as the pseudocode chooses it, from whether the three checks match (R56, R100). -/
theorem resolve_doc42_eq_ite : ∀ syn : Match3,
    (resolve .doc42 syn).map Fin.val =
      let m1 := syn.getLsbD 0
      let m2 := syn.getLsbD 1
      let m3 := syn.getLsbD 2
      if m1 && m2 && m3 then none
      else if !m1 && m2 && m3 then none
      else if m1 && !m2 && m3 then none
      else if m1 && m2 && !m3 then none
      else if !m1 && !m2 && m3 then some 1
      else if !m1 && m2 && !m3 then some 0
      else if m1 && !m2 && !m3 then some 2
      else some 3 := by
  decide

/-- Settles O14: the three comparisons are the bits of SYNDROME, so the pseudocode's candidate is
RESOLVE's, and its word and total are those of the post-check. -/
theorem decodeFollowsTheProcedure : Obligations.DecodeFollowsTheProcedure := by
  intro s c drx m1 m2 m3 cand
  have hcand : cand = (resolve .doc42 (syndromeWord c)).map Fin.val := by
    have hbit := getLsbD_syndromeWord c
    obtain ⟨-, -, -, hsums, -⟩ := paritySumsTheCoveredBits
    obtain ⟨hp1, hp2, hp3⟩ := hsums drx
    have h1 : (syndromeWord c).getLsbD 0 = m1 := (hbit 0).trans (congrArg (_ == ·) hp1)
    have h2 : (syndromeWord c).getLsbD 1 = m2 := (hbit 1).trans (congrArg (_ == ·) hp2)
    have h3 : (syndromeWord c).getLsbD 2 = m3 := (hbit 2).trans (congrArg (_ == ·) hp3)
    rw [resolve_doc42_eq_ite, h1, h2, h3]
  rw [hcand]
  constructor
  · intro h
    exact exec_decode_of_ok (decodeWord_of_none (Option.map_eq_none_iff.1 h)) s
  · intro k hk dcor c2 t
    obtain ⟨k, hr, rfl⟩ := Option.map_eq_some_iff.1 hk
    have hdec := decodeWord_of_some hr
    have ht : (correct (decodeTrace .doc42 c) k).t = t := totalParity_eq_xor c2
    refine ⟨fun h => ?_, fun h => ?_⟩
    · exact exec_decode_of_ok (hdec.trans (postCheck_even (ht.trans h))) s
    · exact ⟨_, exec_decode_of_fail (hdec.trans (postCheck_odd (ht.trans h))) s⟩

/-- Settles O19: the post-check total is the complement of the received total, so the three rows are
those of `decodeWord_of_none`, `_of_odd` and `_of_even`; the counts are of the 256 words. -/
theorem decodeDecisionByTotalParity : Obligations.DecodeDecisionByTotalParity := by
  refine ⟨?_, by rfl, by rfl, by rfl⟩
  intro s c total
  have htotal : totalParity c = total := totalParity_eq_xor c
  refine ⟨fun k => htotal ▸ correct_t .doc42 c k, fun h => ?_,
    fun k h => ⟨fun ht => ?_, fun ht => ?_⟩⟩
  · exact exec_decode_of_ok (decodeWord_of_none h) s
  · exact exec_decode_of_ok (decodeWord_of_some_of_odd h (htotal.trans ht)) s
  · exact ⟨_, exec_decode_of_fail (decodeWord_of_some_of_even h (htotal.trans ht)) s⟩

/-! ### DECODE of an ENCODE output with errors -/

/-- A result with `d` added to its data word, if it has one. -/
def addToData (d : Data4) : Result → Result
  | .ok v => .ok (d ^^^ v)
  | .fail e => .fail e

section

variable (d : Data4) (e : Code8)

theorem syndromeWord_encodeWord_xor : syndromeWord (encodeWord d ^^^ e) = syndromeWord e :=
  syndromeWord_xor_of_match (syndromeWord_encodeWord d) e

theorem receivedData_encodeWord_xor :
    receivedData (encodeWord d ^^^ e) = d ^^^ receivedData e := by
  rw [receivedData_xor, receivedData_encodeWord]

theorem totalParity_encodeWord : totalParity (encodeWord d) = false := by
  rw [totalParity_eq_xor, getLsbD_encodeWord_seven, Bool.xor_self]

theorem totalParity_encodeWord_xor : totalParity (encodeWord d ^^^ e) = totalParity e := by
  rw [totalParity_xor, totalParity_encodeWord, Bool.false_xor]

/-- The errors alone decide: candidate and total parity are theirs, and the data is added (R110). -/
theorem decodeWord_encodeWord_xor (m : SyndromeMap) :
    decodeWord m (encodeWord d ^^^ e) = addToData d (decodeWord m e) := by
  have hsyn := syndromeWord_encodeWord_xor d e
  have htotal := totalParity_encodeWord_xor d e
  cases hr : resolve m (syndromeWord e) with
  | none =>
    rw [decodeWord_of_none hr, decodeWord_of_none (hsyn ▸ hr), receivedData_encodeWord_xor]
    rfl
  | some k =>
    cases ht : totalParity e with
    | false =>
      rw [decodeWord_of_some_of_even hr ht, decodeWord_of_some_of_even (hsyn ▸ hr) (htotal ▸ ht)]
      rfl
    | true =>
      rw [decodeWord_of_some_of_odd hr ht, decodeWord_of_some_of_odd (hsyn ▸ hr) (htotal ▸ ht),
        receivedData_encodeWord_xor, flip, BitVec.xor_assoc]
      rfl

end

/-- An ENCODE output decodes to its data: all checks match, so there is no candidate (R112). -/
theorem decodeWord_encodeWord (m : SyndromeMap) (d : Data4) :
    decodeWord m (encodeWord d) = .ok d := by
  have hnone : resolve m (syndromeWord (encodeWord d)) = none := by
    rw [syndromeWord_encodeWord]
    cases m with
    | doc42 => rfl
    | coverageConsistent => rfl
  rw [decodeWord_of_none hnone, receivedData_encodeWord]

/-! ### The obligations on ENCODE outputs -/

/-- Settles O23: the round trip on words, shown on the ports. -/
theorem decodeOfEncodeIsTheData : Obligations.DecodeOfEncodeIsTheData := fun s d =>
  ⟨encodeWord d, applyEncode d s, exec_encode d s, rfl, fun m => decodeWord_encodeWord m d,
    exec_decode_of_ok (decodeWord_encodeWord .doc42 d) _⟩

/-- Settles O22: the error line shows a failure, and the pattern's syndrome and total decide that. -/
theorem oddErrorPatternsNeverFail : Obligations.OddErrorPatternsNeverFail := by
  intro s d e
  obtain ⟨p, hdec, hin, hp⟩ := applyDecode_dec (encodeWord d ^^^ e) (applyEncode d s)
  have herr := hp.dblErr_iff
  rw [hin, syndromeWord_encodeWord_xor, totalParity_encodeWord_xor] at herr
  refine ⟨encodeWord d, applyEncode d s, _, p, exec_encode d s, rfl, exec_decode _ _, hdec, hin,
    fun hodd => ?_, fun heven => ?_⟩
  · have ht : totalParity e = true := (totalParity_eq_true_iff e).2 hodd
    simpa [ht] using herr
  · rw [herr, and_iff_left ((totalParity_eq_false_iff e).2 heven)]

/-- Settles O24: a flipped parity bit alone leaves no candidate and flips no data bit. -/
theorem parityBitBlindSpot : Obligations.ParityBitBlindSpot := by
  intro s d p hp
  have hrow : (∀ m, resolve m (syndromeWord (BitVec.twoPow 8 p)) = none) ∧
      receivedData (BitVec.twoPow 8 p) = 0#4 := by
    fin_cases hp
    all_goals exact ⟨fun m => by cases m <;> rfl, rfl⟩
  obtain ⟨hnone, hdata⟩ := hrow
  refine ⟨encodeWord d, applyEncode d s, exec_encode d s, rfl, fun m => ?_, ?_⟩
  · rw [syndromeWord_encodeWord_xor, hnone]
  · apply exec_decode_of_ok
    rw [decodeWord_encodeWord_xor, decodeWord_of_none (hnone _), hdata, addToData, BitVec.xor_zero]

/-- Settles O20: each row is a fact about the one-bit error pattern alone. -/
theorem singleErrorOutcomes : Obligations.SingleErrorOutcomes := by
  intro s d row hrow
  have hpattern : totalParity (BitVec.twoPow 8 row.1) = true ∧
      syndromeWord (BitVec.twoPow 8 row.1) = row.2.1 ∧
      resolve .doc42 row.2.1 = row.2.2.1 ∧
      decodeWord .doc42 (BitVec.twoPow 8 row.1) = .ok row.2.2.2 ∧
      decodeWord .coverageConsistent (BitVec.twoPow 8 row.1) = .ok 0#4 := by
    revert row
    decide
  obtain ⟨htotal, hsyn, hcand, hdec, hcov⟩ := hpattern
  have hsyn' := (syndromeWord_encodeWord_xor d (BitVec.twoPow 8 row.1)).trans hsyn
  refine ⟨encodeWord d, applyEncode d s, exec_encode d s, rfl,
    (totalParity_encodeWord_xor d _).trans htotal, ?_, ?_, ?_, ?_⟩
  · rw [exec_syndrome_eq_with, hsyn']
  · exact (congrArg (resolve .doc42) hsyn').trans hcand
  · apply exec_decode_of_ok
    rw [decodeWord_encodeWord_xor, hdec, addToData]
  · rw [decodeWord_encodeWord_xor, hcov, addToData, BitVec.xor_zero]

/-- Settles O21: each row is a fact about the two-bit error pattern alone. -/
theorem doubleErrorOutcomes : Obligations.DoubleErrorOutcomes := by
  refine ⟨by decide, by decide, by decide, by decide, fun s d row hrow => ?_⟩
  have hpattern :
      let e : Code8 := BitVec.twoPow 8 row.1.1 ^^^ BitVec.twoPow 8 row.1.2
      totalParity e = false ∧ syndromeWord e = row.2.1 ∧
      ∀ m ∈ [SyndromeMap.doc42, .coverageConsistent],
        decodeWord m e = row.2.2.elim (.fail .unrecoverableDoubleError) .ok := by
    revert row
    decide
  obtain ⟨⟨a, b⟩, syn, mask⟩ := row
  obtain ⟨htotal, hsyn, hmaps⟩ := hpattern
  have hdec (m : SyndromeMap) : decodeWord m (encodeWord d ^^^
      (BitVec.twoPow 8 a ^^^ BitVec.twoPow 8 b)) =
      addToData d (mask.elim (.fail .unrecoverableDoubleError) .ok) := by
    rw [decodeWord_encodeWord_xor, hmaps m (by cases m <;> decide)]
  refine ⟨encodeWord d, applyEncode d s, exec_encode d s, rfl, ?_⟩
  simp only [BitVec.xor_assoc]
  refine ⟨(totalParity_encodeWord_xor d _).trans htotal, ?_, ?_⟩
  · rw [exec_syndrome_eq_with, syndromeWord_encodeWord_xor, hsyn]
  · cases mask with
    | none => exact ⟨hdec, by simp, fun _ => ⟨_, exec_decode_of_fail (hdec .doc42) _⟩⟩
    | some x =>
      refine ⟨hdec, ?_, by simp⟩
      rintro _ ⟨⟩
      exact exec_decode_of_ok (hdec .doc42) _

/-! ### SHOW and PARSE undo each other -/

theorem parse_of_binary {n : Nat} {str : List Char} (hlen : str.length = n)
    (hbin : ∀ ch ∈ str, isBinary ch = true) :
    parse n str = .ok ((BitVec.ofBoolListLE (str.map (· == '1'))).setWidth n) := by
  rw [parse, if_neg (not_not.2 hlen), if_pos (List.all_eq_true.2 hbin)]

/-- Bit `i` of the word PARSE gives is 1 where character `i` is '1' (44_host_adapter.md R120). -/
theorem getLsbD_of_parse_eq_ok {n : Nat} {str : List Char} {w : BitVec n} (h : parse n str = .ok w)
    {i : Nat} (hi : i < n) : w.getLsbD i = decide (str[i]? = some '1') := by
  obtain ⟨hlen, hbin⟩ := (parse_isOk_iff n str).1 ⟨w, h⟩
  obtain rfl := Except.ok.inj ((parse_of_binary hlen hbin).symm.trans h)
  have his : i < str.length := hlen ▸ hi
  rw [BitVec.getLsbD_setWidth, BitVec.getLsbD_ofBoolListLE]
  simp [hi, his, Bool.beq_eq_decide_eq]

/-- SHOW of the word a string spells is the string. -/
theorem showWord_of_parse_eq_ok {n : Nat} {str : List Char} {w : BitVec n}
    (h : parse n str = .ok w) : showWord w = str := by
  obtain ⟨hlen, hbin⟩ := (parse_isOk_iff n str).1 ⟨w, h⟩
  refine List.ext_getElem? fun i => ?_
  by_cases hi : i < n
  · rw [getElem?_showWord w hi, getLsbD_of_parse_eq_ok h hi, List.getElem?_eq_getElem (hlen ▸ hi)]
    obtain h0 | h1 := (isBinary_iff _).1 (hbin _ (List.getElem_mem (hlen ▸ hi)))
    · simp [h0]
    · simp [h1]
  · rw [List.getElem?_eq_none (by rw [length_showWord]; omega), List.getElem?_eq_none (by omega)]

theorem isBinary_of_mem_showWord {n : Nat} {w : BitVec n} {ch : Char} (h : ch ∈ showWord w) :
    isBinary ch = true := by
  obtain ⟨i, -, rfl⟩ := List.mem_map.1 h
  cases bit w i with
  | false => rfl
  | true => rfl

theorem parse_showWord {n : Nat} (w : BitVec n) : parse n (showWord w) = .ok w := by
  obtain ⟨v, hv⟩ := (parse_isOk_iff n _).2 ⟨length_showWord w, fun _ => isBinary_of_mem_showWord⟩
  have hbits (i : Nat) (hi : i < n) : v.getLsbD i = w.getLsbD i := by
    rw [getLsbD_of_parse_eq_ok hv hi, getElem?_showWord w hi]
    cases w.getLsbD i with
    | false => rfl
    | true => rfl
  rw [hv, BitVec.eq_of_getLsbD_eq hbits]

/-! ### The host's round trip -/

theorem callEncode_of_parse_eq_ok {str : List Char} {d : Data4} (h : parse 4 str = .ok d)
    (s : State) :
    callEncode str s = (applyEncode d s).setResult (.ok (showWord (encodeWord d))) := by
  simp only [callEncode, hostEncode, h]

theorem callDecode_of_parse_eq_ok {str : List Char} {c : Code8} (h : parse 8 str = .ok c)
    (s : State) :
    callDecode str s = (applyDecode c s).setResult (hostResultOf (decodeWord syndromeMap c)) := by
  simp only [callDecode, hostDecode, h]

/-- Settles O35: PARSE gives a word that SHOW turns back into the string, PARSE undoes SHOW of the
codeword, and DECODE undoes ENCODE. -/
theorem hostRoundTrip : Obligations.HostRoundTrip := by
  intro s str hlen hbin
  obtain ⟨d, hd⟩ := (parse_isOk_iff 4 str).2
    ⟨hlen, fun ch hch => (isBinary_iff ch).2 (hbin ch hch)⟩
  refine ⟨showWord (encodeWord d), _, _, step_of_encode rfl, ?_, step_of_decode rfl, ?_⟩
  · rw [callEncode_of_parse_eq_ok hd]
    rfl
  · rw [callDecode_of_parse_eq_ok (parse_showWord _), decodeWord_encodeWord,
      State.setResult_lastResult, hostResultOf, showWord_of_parse_eq_ok hd]

end Sys2Proof.Machine

/-! PROOFS. Host adapter family (44_host_adapter.md R120 to R124): which strings PARSE accepts, what
each host call leaves of the state, and which host results are failures. -/

namespace Sys2Proof.Machine

/-! ### Which strings PARSE accepts -/

/-- PARSE rejects exactly the strings that are not `n` binary symbols (R120). -/
theorem parse_eq_error_iff {n : Nat} {str : List Char} :
    parse n str = .error .invalidInput ↔ ¬(str.length = n ∧ ∀ ch ∈ str, ch = '0' ∨ ch = '1') := by
  simp only [← isBinary_iff]
  obtain ⟨w, hw, hbin⟩ | ⟨herr, hbad⟩ := parse_cases n str
  · exact iff_of_false (by simp [hw]) (not_not.2 hbin)
  · exact iff_of_true herr hbad

/-- PARSE reads `n` binary symbols as the word they spell (R120). -/
theorem exists_parse_eq_ok {n : Nat} {str : List Char}
    (h : str.length = n ∧ ∀ ch ∈ str, ch = '0' ∨ ch = '1') :
    ∃ w : BitVec n, parse n str = .ok w ∧ ∀ i < n, w.getLsbD i = decide (str[i]? = some '1') := by
  simp only [← isBinary_iff] at h
  obtain ⟨w, hw⟩ := (parse_isOk_iff n str).2 h
  exact ⟨w, hw, fun _ hi => getLsbD_of_parse_eq_ok hw hi⟩

/-- Settles O30: nothing depends on the length being 4 or 8. -/
theorem parseAcceptsExactlyBinaryStrings : Obligations.ParseAcceptsExactlyBinaryStrings :=
  fun _ _ _ => ⟨exists_parse_eq_ok, parse_eq_error_iff.2⟩

/-! ### A malformed string evaluates nothing -/

theorem callEncode_of_parse_eq_error {str : List Char} (h : parse 4 str = .error .invalidInput)
    (s : State) : callEncode str s = s.setResult (.failure .invalidInput) := by
  simp only [callEncode, hostEncode, h]

theorem callDecode_of_parse_eq_error {str : List Char} (h : parse 8 str = .error .invalidInput)
    (s : State) : callDecode str s = s.setResult (.failure .invalidInput) := by
  simp only [callDecode, hostDecode, h]

/-! ### Success and failure are kept apart -/

theorem hostResultOf_eq_ok_iff {r : Result} {out : List Char} :
    hostResultOf r = .ok out ↔ ∃ v, r = .ok v ∧ showWord v = out := by
  cases r with
  | ok v => simp [hostResultOf]
  | fail e => simp [hostResultOf]

theorem hostResultOf_eq_failure_iff {r : Result} {e : ErrorKind} :
    hostResultOf r = .failure e ↔ r = .fail e := by
  cases r with
  | ok v => simp [hostResultOf]
  | fail e => simp [hostResultOf]

/-- DECODE has one failure (R111). -/
theorem eq_doubleError_of_decodeWord_eq_fail {m : SyndromeMap} {c : Code8} {e : ErrorKind}
    (h : decodeWord m c = .fail e) : e = .unrecoverableDoubleError := by
  obtain ⟨-, hd⟩ | ⟨k, -, -, hd⟩ | ⟨k, -, -, hd⟩ := decodeWord_cases m c
  · cases hd.symm.trans h
  · cases hd.symm.trans h
  · cases hd.symm.trans h
    rfl

/-- The host result of a decode is what the decoder's ports show (R122). -/
theorem DecoderPorts.follows.hostResultOf_eq {p : DecoderPorts} (h : p.follows) :
    hostResultOf (decodeWord syndromeMap p.codeIn) =
      if p.dblErr then .failure .unrecoverableDoubleError else .ok (showWord p.dataOut) := by
  cases hd : decodeWord syndromeMap p.codeIn with
  | ok v =>
    obtain ⟨herr, hdata⟩ := (follows_of_ok p hd).1 h
    simp [hostResultOf, herr, hdata]
  | fail e =>
    have herr : p.dblErr = true := (follows_of_fail p hd).1 h
    simp [hostResultOf, herr, eq_doubleError_of_decodeWord_eq_fail hd]

/-! ### The step of each host call -/

/-- Settles O31: the string spells a word, and `callEncode` drives the encoder with it. -/
theorem hostEncodeStep : Obligations.HostEncodeStep := by
  refine fun s str rest hp => ⟨fun hbin => ?_, fun hbad => ?_⟩
  · obtain ⟨d, hd, hbits⟩ := exists_parse_eq_ok hbin
    refine ⟨d, encodeWord d, showWord (encodeWord d), hbits, exec_encode_eq_with d s,
      length_showWord _, fun i hi => getElem?_showWord _ hi, ?_⟩
    rw [step_of_encode hp, callEncode_of_parse_eq_ok hd]
    rfl
  · rw [step_of_encode hp, callEncode_of_parse_eq_error (parse_eq_error_iff.2 hbad)]
    rfl

/-- Settles O32: the ports `applyDecode` leaves follow their word, and the host reads its result
there. -/
theorem hostDecodeStep : Obligations.HostDecodeStep := by
  refine fun s str rest hp => ⟨fun hbin => ?_, fun hbad => ?_⟩
  · obtain ⟨c, hc, hbits⟩ := exists_parse_eq_ok hbin
    obtain ⟨p, hdec, hin, hfollows⟩ := applyDecode_dec c (s.setPending rest)
    have hstep := step_of_decode hp
    rw [callDecode_of_parse_eq_ok hc, ← hin, hfollows.hostResultOf_eq, hin] at hstep
    refine ⟨c, p, _, hbits, exec_decode c _, hdec, hin, fun hok => ?_, fun herr => ?_⟩
    · rw [hok] at hstep
      exact ⟨showWord p.dataOut, length_showWord _, fun i hi => getElem?_showWord _ hi, hstep⟩
    · rw [herr] at hstep
      exact hstep
  · rw [step_of_decode hp, callDecode_of_parse_eq_error (parse_eq_error_iff.2 hbad)]
    rfl

/-! ### Validation comes first -/

theorem callEncode_pending (str : List Char) (s : State) :
    (callEncode str s).pending = s.pending := by
  obtain ⟨-, h⟩ | ⟨d, -, h⟩ := callEncode_cases str s
  · rw [h, State.setResult_pending]
  · rw [h, State.setResult_pending, applyEncode_eq, State.setEncoder_pending]

theorem callDecode_pending (str : List Char) (s : State) :
    (callDecode str s).pending = s.pending := by
  obtain ⟨-, h⟩ | ⟨c, -, h⟩ := callDecode_cases str s
  · rw [h, State.setResult_pending]
  · obtain ⟨-, -, hpending, -⟩ := applyDecode_frame c s
    rw [h, State.setResult_pending, hpending]

theorem callEncode_lastResult_invalidInput_iff (str : List Char) (s : State) :
    (callEncode str s).lastResult = some (.failure .invalidInput) ↔
      parse 4 str = .error .invalidInput := by
  obtain ⟨hp, h⟩ | ⟨d, hp, h⟩ := callEncode_cases str s
  · simp [hp, h]
  · simp [hp, h]

/-- A host `decode` reports InvalidInput for a rejected string only: DECODE never answers it. -/
theorem callDecode_lastResult_invalidInput_iff (str : List Char) (s : State) :
    (callDecode str s).lastResult = some (.failure .invalidInput) ↔
      parse 8 str = .error .invalidInput := by
  obtain ⟨hp, h⟩ | ⟨c, hp, h⟩ := callDecode_cases str s
  · simp [hp, h]
  · have hne : decodeWord syndromeMap c ≠ .fail .invalidInput := fun hd =>
      nomatch eq_doubleError_of_decodeWord_eq_fail hd
    simp [hp, h, hostResultOf_eq_failure_iff, hne]

/-- Settles O33: each call reports InvalidInput exactly when PARSE rejects, and then only records it. -/
theorem validationComesFirst : Obligations.ValidationComesFirst := by
  rintro s n str rest (⟨rfl, hp⟩ | ⟨rfl, hp⟩)
  · refine ⟨_, step_of_encode hp, callEncode_pending str _, ?_, fun hbad => ?_⟩
    · rw [callEncode_lastResult_invalidInput_iff, parse_eq_error_iff]
    · rw [callEncode_of_parse_eq_error (parse_eq_error_iff.2 hbad)]
      exact ⟨rfl, rfl, rfl, rfl⟩
  · refine ⟨_, step_of_decode hp, callDecode_pending str _, ?_, fun hbad => ?_⟩
    · rw [callDecode_lastResult_invalidInput_iff, parse_eq_error_iff]
    · rw [callDecode_of_parse_eq_error (parse_eq_error_iff.2 hbad)]
      exact ⟨rfl, rfl, rfl, rfl⟩

/-! ### The host result of a word's string -/

/-- PARSE undoes SHOW, so decoding a word's string answers the decode of the word. -/
theorem hostDecode_showWord (m : SyndromeMap) (c : Code8) :
    hostDecode m (showWord c) = hostResultOf (decodeWord m c) := by
  simp only [hostDecode, parse_showWord]

/-- Settles O34: the host result keeps the kind of the decode's result, and "00000000" is the string
of the codeword of 0. -/
theorem hostResultsNeverConflated : Obligations.HostResultsNeverConflated := by
  refine ⟨fun m c => ?_, fun m => ?_⟩
  · rw [hostDecode_showWord]
    refine ⟨?_, hostResultOf_eq_failure_iff, fun v hv => by rw [hv, hostResultOf]⟩
    simp [hostResultOf_eq_ok_iff]
  · have hzero : List.replicate 8 '0' = showWord (encodeWord 0) := by decide
    rw [hzero, hostDecode_showWord, decodeWord_encodeWord]
    rfl

end Sys2Proof.Machine

/-! PROOFS. Exceptions family (60_exceptions.md R130 to R135): the double error is a level on the
decoder's ports, a function of the word held there; it leaves nothing behind and stops nothing. -/

namespace Sys2Proof.Machine

/-! ### The error line and the result -/

/-- The error line of ports that follow their word is that word's failure (R132). -/
theorem DecoderPorts.follows.dblErr_iff_decodeWord_eq_fail {p : DecoderPorts} (h : p.follows) :
    p.dblErr = true ↔ decodeWord .doc42 p.codeIn = .fail .unrecoverableDoubleError :=
  h.dblErr_iff.trans (decodeWord_eq_fail_iff .doc42 p.codeIn).symm

/-! ### A step on a well-formed operation -/

/-- The byte of an operation, driven on its own unit, performs that operation (R57). -/
theorem step_of_drive_encodeDrive {s : State} {i : Instr} {rest : List HostCall}
    (hp : s.pending = .drive i.unit (encodeDrive i) :: rest) :
    step s = .next (applyInstr i (s.setPending rest)) :=
  step_of_drive_ok hp (decodeDrive_encodeDrive i)

/-! ### The obligations -/

/-- Settles O43: the three values of `errorCode`, and the two constructors of `ErrorKind`. -/
theorem errorKindsAndCodes : Obligations.ErrorKindsAndCodes := by
  refine ⟨rfl, rfl, rfl, fun e => ?_⟩
  cases e with
  | invalidInput => exact .inl rfl
  | unrecoverableDoubleError => exact .inr rfl

/-- Settles O25: the ports DECODE leaves follow the word, and a failure takes a candidate and an
even total; ENCODE and SYNDROME write other ports. -/
theorem doubleErrorRaisedExactlyWhen : Obligations.DoubleErrorRaisedExactlyWhen := by
  refine ⟨fun s c => ?_, fun s d => ⟨_, exec_encode d s, rfl⟩,
    fun s c => ⟨_, exec_syndrome c s, rfl⟩⟩
  obtain ⟨p, hdec, rfl, hfollows⟩ := applyDecode_dec c s
  refine ⟨_, p, exec_decode p.codeIn s, hdec, rfl, ?_⟩
  rw [hfollows.dblErr_iff, totalParity_eq_false_iff, Option.ne_none_iff_exists']

/-- Settles O29: each of the three decodes leaves ports that follow its own word, and ports that
follow the same word agree. -/
theorem failureIsNotSticky : Obligations.FailureIsNotSticky := by
  intro s c c'
  obtain ⟨p, hp, hpin, hpf⟩ := applyDecode_dec c s
  obtain ⟨q, hq, hqin, hqf⟩ := applyDecode_dec c' (applyDecode c s)
  obtain ⟨r, hr, hrin, hrf⟩ := applyDecode_dec c (applyDecode c' (applyDecode c s))
  obtain ⟨herr, hdata⟩ := DecoderPorts.follows_agree hpf hrf (hpin.trans hrin.symm)
  refine ⟨_, _, _, p, q, r, exec_decode c s, hp, exec_decode c' _, hq, exec_decode c _, hr,
    herr.symm, fun hok => (hdata hok).symm, fun hcc => ?_, ?_, fun w hw => ?_⟩
  · obtain ⟨hqp, -⟩ := DecoderPorts.follows_agree hqf hpf (hqin.trans (hcc.trans hpin.symm))
    exact hqp
  · rw [hqf.dblErr_iff_decodeWord_eq_fail, hqin]
  · exact (q.follows_of_ok (hqin.symm ▸ hw)).1 hqf

/-- Settles O41: the first step leaves the failure on the decoder and the encoder's call waiting;
the second performs it and writes the encoder's ports only. -/
theorem failureDoesNotStopTheMachine : Obligations.FailureDoesNotStopTheMachine := by
  intro s c d hfail hpending
  obtain ⟨p, hdec, hin, hfollows⟩ :=
    applyDecode_dec c (s.setPending [.drive .hammingEncoder (d.setWidth 8)])
  obtain ⟨-, -, hwaiting, -⟩ :=
    applyDecode_frame c (s.setPending [.drive .hammingEncoder (d.setWidth 8)])
  have herr : p.dblErr = true := (p.follows_of_fail (hin.symm ▸ hfail)).1 hfollows
  have hfirst := step_of_drive_encodeDrive (i := .decode c) hpending
  have hsecond := step_of_drive_encodeDrive (i := .encode d) hwaiting
  exact ⟨_, _, p, encodeWord d, hfirst, hdec, hin, herr, hsecond, hdec, rfl, rfl⟩

end Sys2Proof.Machine

/-! PROOFS. Reset family (70_reset_and_hazards.md R156, R157): every step performs the oldest waiting
call and leaves the others, so a run of calls that fit never stops and drains them. -/

namespace Sys2Proof.Machine

/-! ### One step from waiting calls that fit -/

/-- A step completes and takes exactly the oldest waiting call off the list; with none waiting the
tail of the empty list is the empty list. -/
theorem State.CallsFit.exists_step {s : State} (hfit : s.CallsFit) :
    ∃ t, step s = .next t ∧ t.pending = s.pending.tail := by
  cases hp : s.pending with
  | nil => exact ⟨s, step_of_pending_nil hp, hp⟩
  | cons call rest =>
    cases call with
    | drive u w =>
      have hw : fitsPort u w = true := hfit (.drive u w) (hp ▸ List.mem_cons_self)
      obtain ⟨i, hd⟩ := (decodeDrive_isOk_iff u w).2 hw
      exact ⟨_, step_of_drive_ok hp hd, applyInstr_pending i _⟩
    | encode str => exact ⟨_, step_of_encode hp, callEncode_pending str _⟩
    | decode str => exact ⟨_, step_of_decode hp, callDecode_pending str _⟩

theorem State.CallsFit.of_pending_eq_tail {s t : State} (hfit : s.CallsFit)
    (h : t.pending = s.pending.tail) : t.CallsFit :=
  fun call hc => hfit call (List.mem_of_mem_tail (h ▸ hc))

/-! ### A run from waiting calls that fit -/

/-- Both invariants are kept along a run, and `k` steps perform the `k` oldest calls. -/
theorem State.PortsFollow.run {s : State} (hs : s.PortsFollow) (hfit : s.CallsFit) (k : Nat) :
    ∃ t, Sys2Proof.core.run k s = .next t ∧ t.PortsFollow ∧ t.pending = s.pending.drop k := by
  induction k generalizing s with
  | zero => exact ⟨s, rfl, hs, rfl⟩
  | succ k ih =>
    obtain ⟨t, hstep, htail⟩ := hfit.exists_step
    obtain ⟨t', hrun, hfollows, hdrop⟩ := ih (hs.step hstep) (hfit.of_pending_eq_tail htail)
    refine ⟨t', (core_run_succ_of_next hstep k).trans hrun, hfollows, ?_⟩
    rw [hdrop, htail, List.drop_tail]

/-! ### The obligation -/

/-- Settles O46: a run keeps the ports following and drops one call a step, so the whole list is
dropped after its length. -/
theorem everyWaitingCallIsPerformed : Obligations.EveryWaitingCallIsPerformed := by
  intro s hs hfit
  constructor
  · intro k
    obtain ⟨t, hrun, hfollows, -⟩ := hs.run hfit k
    exact ⟨t, hrun, hfollows⟩
  · obtain ⟨t, hrun, -, hdrop⟩ := hs.run hfit s.pending.length
    exact ⟨t, hrun, hdrop.trans List.drop_length⟩

end Sys2Proof.Machine
